-- ==== Sys2Proof/Word.lean ====
section
/-! DEFINITION. The word types of the machine: the byte and the 16-bit word (R8, R10 of spec/00_scope.md). -/

namespace Sys2Proof

/-- An 8-bit value: a register, a memory cell, a port value (R8). -/
abbrev Byte := BitVec 8

/-- A 16-bit value: an address, a register pair, PC, SP (R8). -/
abbrev Word := BitVec 16

end Sys2Proof
end

