-- ==== Sys2Proof/Machine/Bits.lean ====
section
/-! DEFINITION. The byte-order and sign-extension helpers of R10 and R71: the halves of a word, a word from two bytes, `sext_8`. -/

namespace Sys2Proof

/-- Bits 7 to 0 of a word. -/
def loByte (w : Word) : Byte := w.extractLsb' 0 8

/-- Bits 15 to 8 of a word. -/
def hiByte (w : Word) : Byte := w.extractLsb' 8 8

/-- `hi :: lo` (R10): the word whose more significant byte is `hi`. -/
def wordOf (hi lo : Byte) : Word := hi ++ lo

/-- `sext_8` (R10): the byte read as two's complement and extended to 16 bits. -/
def sext8 (v : Byte) : Word := v.signExtend 16

end Sys2Proof
end

