-- ==== Sys2Proof/Config.lean ====
section
/-! DEFINITION. What is fixed for the machine (R9 of spec/00_scope.md), and the free values: constants with no body, so that nothing can
prove what they are. -/

namespace Sys2Proof.Config

/-- `INT_BUS_BYTE`: the byte on the data bus during maskable-interrupt acknowledge (R9). -/
def intBusByte : Byte := 0xFF

/-- `NMI_VECTOR` (R9, R474). -/
def nmiVector : Word := 0x0066

/-- `INT_VECTOR_IM1`: the vector of modes 0 and 1 (R9, R475). -/
def intVectorIm1 : Word := 0x0038

/-- `CYCLES_PER_LINE` (R9, R526). -/
def cyclesPerLine : Nat := 228

/-- `LINES_PER_FRAME` (R9, R526). -/
def linesPerFrame : Nat := 262

/-- `ACTIVE_LINES` (R9, R526). -/
def activeLines : Nat := 192

/-- `SCREEN_W` (R9, R540). -/
def screenW : Nat := 256

/-- `CPU_CLOCK_HZ` (R9). -/
def cpuClockHz : Nat := 3579545

/-- The byte every cell of every memory holds that State does not list: the model's choice for the OPEN initial contents `RAM_INIT`,
`CARTRAM_INIT`, `VRAM_INIT`, `CRAM_INIT` (R583, R512). DESIGN CHOICE, unsafe: log entry 2. -/
def unlistedByte : Byte := 0x00

/-! ### Free values -/

/-- The byte U that supplies F.Y and F.X after `BIT b,(HL)`, drawn afresh at each execution (R381, U1): the argument is the number of
the draw. Log entry 6. -/
opaque freeByte : Nat → Byte

/-- One pixel of a legacy-mode line (R548, U2), as the bytes R, G, B, A: the number of the draw, and the pixel's x. Log entry 7. -/
opaque freePixel : Nat → Nat → Byte × Byte × Byte × Byte

/-- One less than `SAMPLE_RATE`, which is OPEN (R9) and positive because it is a rate. Log entry 13. -/
opaque sampleRatePred : Nat

/-- `SAMPLE_RATE` (R9, R554). -/
def sampleRate : Nat := sampleRatePred + 1

/-- Bounds for the OPEN attenuation table (R9, R562): any value at all, from which `psgAtten` takes a non-increasing table. Log entry 14. -/
opaque psgAttenRaw : Nat → Rat

/-- `PSG_ATTEN[v]` (R562): 1 at 0, 0 at 15, non-increasing between, otherwise OPEN. -/
def psgAtten : Nat → Rat
  | 0 => 1
  | v + 1 => if 15 ≤ v + 1 then 0 else max 0 (min (psgAtten v) (psgAttenRaw (v + 1)))

/-- `NOISE_BUF` (R561), true for +1 and false for -1: OPEN, and whether `noise[2]` selects a second buffer is OPEN too, so it is an
argument. Log entry 14. -/
opaque noiseBuf : Bool → Nat → Bool

/-- One less than the length of the noise buffer, which is not empty (R561). Log entry 14. -/
opaque noiseLenPred : Bool → Nat

end Sys2Proof.Config
end

