-- ==== Sys2Proof/Machine/Memory.lean ====
section
/-! DEFINITION. Reading and writing one byte of a memory held as a list of cells, the canonical form of the list (addresses strictly rising,
and no cell that holds what an unlisted address reads as, log entry 2), and the cartridge ROM with its length. -/

namespace Sys2Proof.Machine

/-- The cells of a memory that do not read as `Config.unlistedByte`, at strictly rising addresses (`Memory.wf`). -/
abbrev Memory := List Host.Cell

/-- The byte at `a`. -/
def Memory.read : Memory → Nat → Byte
  | [], _ => Config.unlistedByte
  | (k, v) :: m, a => if a = k then v else Memory.read m a

/-- The list with the cell `(a, v)` in its place. -/
def Memory.insert : Memory → Nat → Byte → Memory
  | [], a, v => [(a, v)]
  | (k, w) :: m, a, v =>
    if a < k then (a, v) :: (k, w) :: m
    else if a = k then (a, v) :: m
    else (k, w) :: Memory.insert m a v

/-- The list without a cell at `a`. -/
def Memory.erase (m : Memory) (a : Nat) : Memory := m.filter fun c => c.1 != a

/-- The memory with `v` at `a`, in canonical form. -/
def Memory.write (m : Memory) (a : Nat) (v : Byte) : Memory :=
  if v = Config.unlistedByte then m.erase a else m.insert a v

/-- The memory of `size` bytes that holds the cells `cells`, the first of two at one address, in canonical form: cells past the size are
not in it. -/
def Memory.ofCells (size : Nat) : List Host.Cell → Memory
  | [] => []
  | (a, v) :: rest => if a < size then (Memory.ofCells size rest).write a v else Memory.ofCells size rest

/-- The canonical form: equal memories are equal lists. -/
abbrev Memory.wf (m : Memory) : Prop :=
  m.Pairwise (fun x y => x.1 < y.1) ∧ ∀ c ∈ m, c.2 ≠ Config.unlistedByte

/-- Every cell of the list lies below `n`, the size of the memory. -/
abbrev Memory.below (m : Memory) (n : Nat) : Prop := ∀ c ∈ m, c.1 < n

/-! ### The cartridge -/

/-- `ROM` (R9, R82): the bytes, and how many banks of 16 KiB there are beyond the three every cartridge has. No ROM whose length is less
than 48 KiB or no multiple of 16 KiB can be written down: such a cartridge is a failure of construction (D30). -/
structure Rom where
  cells     : Memory
  moreBanks : Nat
deriving DecidableEq, Repr

/-- `len(ROM)` (R9). -/
def Rom.length (r : Rom) : Nat := (3 + r.moreBanks) * 0x4000

/-- `BANK_COUNT = len(ROM) / 0x4000` (R9). -/
def Rom.bankCount (r : Rom) : Nat := r.length / 0x4000

/-- `ROM[off]` (R80). -/
def Rom.read (r : Rom) (off : Nat) : Byte := r.cells.read off

/-- A byte of the ROM replaced: what a loader outside the machine does; ROM is immutable to the machine (R80). -/
def Rom.load (r : Rom) (off : Nat) (v : Byte) : Rom := { r with cells := r.cells.write off v }

/-- The ROM with its cells in canonical form and none past its length. -/
def Rom.normal (r : Rom) : Rom := { r with cells := Memory.ofCells r.length r.cells }

end Sys2Proof.Machine
end

