-- ==== Sys2Proof/Syntax.lean ====
section
/-! DEFINITION. The instructions: one constructor of `Instr` per row of spec/opcode_table.json (R142), and the operand kinds they
carry (R124, R126 to R131). Immediates and displacements are the operand bytes themselves; words are already assembled (R124). -/

namespace Sys2Proof

/-- The seven opcode tables (R48, R121). -/
inductive OpTable where
  | main | cb | ed | dd | fd | ddcb | fdcb
deriving DecidableEq, Repr

/-- The seven 8-bit registers a 3-bit code can name (R126); code 6 is the memory operand and no register. -/
inductive Reg8 where
  | b | c | d | e | h | l | a
deriving DecidableEq, Repr

/-- The register pairs `rp`: dd and ss (R127). -/
inductive Pair where
  | bc | de | hl | sp
deriving DecidableEq, Repr

/-- The register pairs `rp2`: qq of PUSH and POP (R127). -/
inductive QPair where
  | bc | de | hl | af
deriving DecidableEq, Repr

/-- The pairs that can be added to an index register: pp and rr (R127); `xy` is the index register itself. -/
inductive IdxPair where
  | bc | de | xy | sp
deriving DecidableEq, Repr

/-- The condition codes (R128). -/
inductive Cond where
  | nz | z | nc | c | po | pe | p | m
deriving DecidableEq, Repr

/-- The halves of an index register (R131). -/
inductive Half where
  | hi | lo
deriving DecidableEq, Repr

/-- The sources of `LD XYH,s` and `LD XYL,s` (R179): codes 4 and 5 mean the halves of the index register. -/
inductive IdxSrc where
  | b | c | d | e | xh | xl | a
deriving DecidableEq, Repr

/-- The destinations of `LD r,XYH` and `LD r,XYL` (R179): B, C, D, E, A. -/
inductive PlainReg where
  | b | c | d | e | a
deriving DecidableEq, Repr

/-- The index register a prefix selects (R122): IX under 0xDD, IY under 0xFD. -/
inductive Idx where
  | ix | iy
deriving DecidableEq, Repr

/-- One constructor per row of spec/opcode_table.json, table by table; the ED table stands last because the compiler bounds the number of a
constructor that carries operands. -/
inductive Instr where
  -- main table (R132)
  /-- `NOP` (R315). -/
  | nop
  /-- `EX AF,AF'` (R241). -/
  | exAfAf
  /-- `DJNZ e` (R410). -/
  | djnzE (e : Byte)
  /-- `JR e` (R403). -/
  | jrE (e : Byte)
  /-- `JR NZ,e` (R407). -/
  | jrNzE (e : Byte)
  /-- `JR Z,e` (R406). -/
  | jrZE (e : Byte)
  /-- `JR NC,e` (R405). -/
  | jrNcE (e : Byte)
  /-- `JR C,e` (R404). -/
  | jrCE (e : Byte)
  /-- `LD dd,nn` (R200). -/
  | ldDdNn (p : Pair) (nn : Word)
  /-- `ADD HL,ss` (R330). -/
  | addHlSs (p : Pair)
  /-- `LD (BC),A` (R172). -/
  | ldIndBcA
  /-- `LD A,(BC)` (R169). -/
  | ldAIndBc
  /-- `LD (DE),A` (R173). -/
  | ldIndDeA
  /-- `LD A,(DE)` (R170). -/
  | ldAIndDe
  /-- `LD (nn),HL` (R205). -/
  | ldIndNnHl (nn : Word)
  /-- `LD HL,(nn)` (R202). -/
  | ldHlIndNn (nn : Word)
  /-- `LD (nn),A` (R174). -/
  | ldIndNnA (nn : Word)
  /-- `LD A,(nn)` (R171). -/
  | ldAIndNn (nn : Word)
  /-- `INC ss` (R334). -/
  | incSs (p : Pair)
  /-- `DEC ss` (R336). -/
  | decSs (p : Pair)
  /-- `INC r` (R284). -/
  | incR (r : Reg8)
  /-- `INC (HL)` (R285). -/
  | incIndHl
  /-- `DEC r` (R287). -/
  | decR (r : Reg8)
  /-- `DEC (HL)` (R288). -/
  | decIndHl
  /-- `LD r,n` (R162). -/
  | ldRN (r : Reg8) (n : Byte)
  /-- `LD (HL),n` (R167). -/
  | ldIndHlN (n : Byte)
  /-- `RLCA` (R350). -/
  | rlca
  /-- `RRCA` (R352). -/
  | rrca
  /-- `RLA` (R351). -/
  | rla
  /-- `RRA` (R353). -/
  | rra
  /-- `DAA` (R310). -/
  | daa
  /-- `CPL` (R311). -/
  | cpl
  /-- `SCF` (R314). -/
  | scf
  /-- `CCF` (R313). -/
  | ccf
  /-- `LD r,r'` (R161). -/
  | ldRR (r : Reg8) (r' : Reg8)
  /-- `LD r,(HL)` (R163). -/
  | ldRIndHl (r : Reg8)
  /-- `LD (HL),r` (R165). -/
  | ldIndHlR (r : Reg8)
  /-- `HALT` (R316). -/
  | halt
  /-- `ADD A,r` (R276). -/
  | addAR (r : Reg8)
  /-- `ADD A,(HL)` (R276). -/
  | addAIndHl
  /-- `ADD A,n` (R276). -/
  | addAN (n : Byte)
  /-- `ADC A,r` (R277). -/
  | adcAR (r : Reg8)
  /-- `ADC A,(HL)` (R277). -/
  | adcAIndHl
  /-- `ADC A,n` (R277). -/
  | adcAN (n : Byte)
  /-- `SUB r` (R278). -/
  | subR (r : Reg8)
  /-- `SUB (HL)` (R278). -/
  | subIndHl
  /-- `SUB n` (R278). -/
  | subN (n : Byte)
  /-- `SBC A,r` (R279). -/
  | sbcAR (r : Reg8)
  /-- `SBC A,(HL)` (R279). -/
  | sbcAIndHl
  /-- `SBC A,n` (R279). -/
  | sbcAN (n : Byte)
  /-- `AND r` (R280). -/
  | andR (r : Reg8)
  /-- `AND (HL)` (R280). -/
  | andIndHl
  /-- `AND n` (R280). -/
  | andN (n : Byte)
  /-- `XOR r` (R281). -/
  | xorR (r : Reg8)
  /-- `XOR (HL)` (R281). -/
  | xorIndHl
  /-- `XOR n` (R281). -/
  | xorN (n : Byte)
  /-- `OR r` (R282). -/
  | orR (r : Reg8)
  /-- `OR (HL)` (R282). -/
  | orIndHl
  /-- `OR n` (R282). -/
  | orN (n : Byte)
  /-- `CP r` (R283). -/
  | cpR (r : Reg8)
  /-- `CP (HL)` (R283). -/
  | cpIndHl
  /-- `CP n` (R283). -/
  | cpN (n : Byte)
  /-- `RET cc` (R414). -/
  | retCc (cc : Cond)
  /-- `POP qq` (R212). -/
  | popQq (p : QPair)
  /-- `RET` (R413). -/
  | ret
  /-- `EXX` (R242). -/
  | exx
  /-- `JP (HL)` (R408). -/
  | jpHl
  /-- `LD SP,HL` (R208). -/
  | ldSpHl
  /-- `JP cc,nn` (R402). -/
  | jpCcNn (cc : Cond) (nn : Word)
  /-- `JP nn` (R401). -/
  | jpNn (nn : Word)
  /-- `OUT (n),A` (R437). -/
  | outPortNA (n : Byte)
  /-- `IN A,(n)` (R430). -/
  | inAPortN (n : Byte)
  /-- `EX (SP),HL` (R243). -/
  | exIndSpHl
  /-- `EX DE,HL` (R240). -/
  | exDeHl
  /-- `DI` (R317). -/
  | di
  /-- `EI` (R318). -/
  | ei
  /-- `CALL cc,nn` (R412). -/
  | callCcNn (cc : Cond) (nn : Word)
  /-- `PUSH qq` (R210). -/
  | pushQq (p : QPair)
  /-- `CALL nn` (R411). -/
  | callNn (nn : Word)
  /-- `RST p` (R417). -/
  | rstP (t : BitVec 3)
  -- CB table (R133)
  /-- `RLC r` (R355). -/
  | rlcR (r : Reg8)
  /-- `RLC (HL)` (R355). -/
  | rlcIndHl
  /-- `RRC r` (R357). -/
  | rrcR (r : Reg8)
  /-- `RRC (HL)` (R357). -/
  | rrcIndHl
  /-- `RL r` (R356). -/
  | rlR (r : Reg8)
  /-- `RL (HL)` (R356). -/
  | rlIndHl
  /-- `RR r` (R358). -/
  | rrR (r : Reg8)
  /-- `RR (HL)` (R358). -/
  | rrIndHl
  /-- `SLA r` (R359). -/
  | slaR (r : Reg8)
  /-- `SLA (HL)` (R359). -/
  | slaIndHl
  /-- `SRA r` (R360). -/
  | sraR (r : Reg8)
  /-- `SRA (HL)` (R360). -/
  | sraIndHl
  /-- `SLL r` (R362). -/
  | sllR (r : Reg8)
  /-- `SLL (HL)` (R362). -/
  | sllIndHl
  /-- `SRL r` (R361). -/
  | srlR (r : Reg8)
  /-- `SRL (HL)` (R361). -/
  | srlIndHl
  /-- `BIT b,r` (R380). -/
  | bitBR (b : BitVec 3) (r : Reg8)
  /-- `BIT b,(HL)` (R381). -/
  | bitBIndHl (b : BitVec 3)
  /-- `RES b,r` (R386). -/
  | resBR (b : BitVec 3) (r : Reg8)
  /-- `RES b,(HL)` (R387). -/
  | resBIndHl (b : BitVec 3)
  /-- `SET b,r` (R383). -/
  | setBR (b : BitVec 3) (r : Reg8)
  /-- `SET b,(HL)` (R384). -/
  | setBIndHl (b : BitVec 3)
  -- DD table (R136)
  /-- `ADD IX,pp` (R333). -/
  | addIxPp (p : IdxPair)
  /-- `LD IX,nn` (R201). -/
  | ldIxNn (nn : Word)
  /-- `LD (nn),IX` (R207). -/
  | ldIndNnIx (nn : Word)
  /-- `INC IX` (R335). -/
  | incIx
  /-- `LD IX,(nn)` (R204). -/
  | ldIxIndNn (nn : Word)
  /-- `DEC IX` (R337). -/
  | decIx
  /-- `INC IXh` (R290). -/
  | incIxHalf (h : Half)
  /-- `DEC IXh` (R291). -/
  | decIxHalf (h : Half)
  /-- `LD IXh,n` (R180). -/
  | ldIxHalfN (h : Half) (n : Byte)
  /-- `INC (IX+d)` (R286). -/
  | incIndIx (d : Byte)
  /-- `DEC (IX+d)` (R289). -/
  | decIndIx (d : Byte)
  /-- `LD (IX+d),n` (R168). -/
  | ldIndIxN (d : Byte) (n : Byte)
  /-- `LD r,(IX+d)` (R164). -/
  | ldRIndIx (r : Reg8) (d : Byte)
  /-- `LD (IX+d),r` (R166). -/
  | ldIndIxR (d : Byte) (r : Reg8)
  /-- `LD IXh,s` (R179). -/
  | ldIxHalfS (h : Half) (s : IdxSrc)
  /-- `LD r,IXh` (R179). -/
  | ldRIxHalf (r : PlainReg) (h : Half)
  /-- `ADD A,(IX+d)` (R276). -/
  | addAIndIx (d : Byte)
  /-- `ADD A,IXh` (R276). -/
  | addAIxHalf (h : Half)
  /-- `ADC A,(IX+d)` (R277). -/
  | adcAIndIx (d : Byte)
  /-- `ADC A,IXh` (R277). -/
  | adcAIxHalf (h : Half)
  /-- `SUB (IX+d)` (R278). -/
  | subIndIx (d : Byte)
  /-- `SUB IXh` (R278). -/
  | subIxHalf (h : Half)
  /-- `SBC A,(IX+d)` (R279). -/
  | sbcAIndIx (d : Byte)
  /-- `SBC A,IXh` (R279). -/
  | sbcAIxHalf (h : Half)
  /-- `AND (IX+d)` (R280). -/
  | andIndIx (d : Byte)
  /-- `AND IXh` (R280). -/
  | andIxHalf (h : Half)
  /-- `XOR (IX+d)` (R281). -/
  | xorIndIx (d : Byte)
  /-- `XOR IXh` (R281). -/
  | xorIxHalf (h : Half)
  /-- `OR (IX+d)` (R282). -/
  | orIndIx (d : Byte)
  /-- `OR IXh` (R282). -/
  | orIxHalf (h : Half)
  /-- `CP (IX+d)` (R283). -/
  | cpIndIx (d : Byte)
  /-- `CP IXh` (R283). -/
  | cpIxHalf (h : Half)
  /-- `POP IX` (R213). -/
  | popIx
  /-- `EX (SP),IX` (R244). -/
  | exIndSpIx
  /-- `PUSH IX` (R211). -/
  | pushIx
  /-- `JP (IX)` (R409). -/
  | jpIx
  /-- `LD SP,IX` (R209). -/
  | ldSpIx
  -- DDCB table (R137)
  /-- `RLC (IX+d)` (R355). -/
  | rlcIndIx (d : Byte)
  /-- `RLC (IX+d),r` (R365). -/
  | rlcIndIxR (d : Byte) (r : Reg8)
  /-- `RRC (IX+d)` (R357). -/
  | rrcIndIx (d : Byte)
  /-- `RRC (IX+d),r` (R365). -/
  | rrcIndIxR (d : Byte) (r : Reg8)
  /-- `RL (IX+d)` (R356). -/
  | rlIndIx (d : Byte)
  /-- `RL (IX+d),r` (R365). -/
  | rlIndIxR (d : Byte) (r : Reg8)
  /-- `RR (IX+d)` (R358). -/
  | rrIndIx (d : Byte)
  /-- `RR (IX+d),r` (R365). -/
  | rrIndIxR (d : Byte) (r : Reg8)
  /-- `SLA (IX+d)` (R359). -/
  | slaIndIx (d : Byte)
  /-- `SLA (IX+d),r` (R365). -/
  | slaIndIxR (d : Byte) (r : Reg8)
  /-- `SRA (IX+d)` (R360). -/
  | sraIndIx (d : Byte)
  /-- `SRA (IX+d),r` (R365). -/
  | sraIndIxR (d : Byte) (r : Reg8)
  /-- `SLL (IX+d)` (R362). -/
  | sllIndIx (d : Byte)
  /-- `SLL (IX+d),r` (R365). -/
  | sllIndIxR (d : Byte) (r : Reg8)
  /-- `SRL (IX+d)` (R361). -/
  | srlIndIx (d : Byte)
  /-- `SRL (IX+d),r` (R365). -/
  | srlIndIxR (d : Byte) (r : Reg8)
  /-- `BIT b,(IX+d)` (R382). -/
  | bitBIndIx (b : BitVec 3) (d : Byte)
  /-- `BIT b,(IX+d) (alias)` (R382). -/
  | bitBIndIxAlias (b : BitVec 3) (d : Byte) (y : Reg8)
  /-- `RES b,(IX+d)` (R388). -/
  | resBIndIx (b : BitVec 3) (d : Byte)
  /-- `RES b,(IX+d),r` (R389). -/
  | resBIndIxR (b : BitVec 3) (d : Byte) (r : Reg8)
  /-- `SET b,(IX+d)` (R385). -/
  | setBIndIx (b : BitVec 3) (d : Byte)
  /-- `SET b,(IX+d),r` (R389). -/
  | setBIndIxR (b : BitVec 3) (d : Byte) (r : Reg8)
  -- FD table (R136)
  /-- `ADD IY,pp` (R333). -/
  | addIyPp (p : IdxPair)
  /-- `LD IY,nn` (R201). -/
  | ldIyNn (nn : Word)
  /-- `LD (nn),IY` (R207). -/
  | ldIndNnIy (nn : Word)
  /-- `INC IY` (R335). -/
  | incIy
  /-- `LD IY,(nn)` (R204). -/
  | ldIyIndNn (nn : Word)
  /-- `DEC IY` (R337). -/
  | decIy
  /-- `INC IYh` (R290). -/
  | incIyHalf (h : Half)
  /-- `DEC IYh` (R291). -/
  | decIyHalf (h : Half)
  /-- `LD IYh,n` (R180). -/
  | ldIyHalfN (h : Half) (n : Byte)
  /-- `INC (IY+d)` (R286). -/
  | incIndIy (d : Byte)
  /-- `DEC (IY+d)` (R289). -/
  | decIndIy (d : Byte)
  /-- `LD (IY+d),n` (R168). -/
  | ldIndIyN (d : Byte) (n : Byte)
  /-- `LD r,(IY+d)` (R164). -/
  | ldRIndIy (r : Reg8) (d : Byte)
  /-- `LD (IY+d),r` (R166). -/
  | ldIndIyR (d : Byte) (r : Reg8)
  /-- `LD IYh,s` (R179). -/
  | ldIyHalfS (h : Half) (s : IdxSrc)
  /-- `LD r,IYh` (R179). -/
  | ldRIyHalf (r : PlainReg) (h : Half)
  /-- `ADD A,(IY+d)` (R276). -/
  | addAIndIy (d : Byte)
  /-- `ADD A,IYh` (R276). -/
  | addAIyHalf (h : Half)
  /-- `ADC A,(IY+d)` (R277). -/
  | adcAIndIy (d : Byte)
  /-- `ADC A,IYh` (R277). -/
  | adcAIyHalf (h : Half)
  /-- `SUB (IY+d)` (R278). -/
  | subIndIy (d : Byte)
  /-- `SUB IYh` (R278). -/
  | subIyHalf (h : Half)
  /-- `SBC A,(IY+d)` (R279). -/
  | sbcAIndIy (d : Byte)
  /-- `SBC A,IYh` (R279). -/
  | sbcAIyHalf (h : Half)
  /-- `AND (IY+d)` (R280). -/
  | andIndIy (d : Byte)
  /-- `AND IYh` (R280). -/
  | andIyHalf (h : Half)
  /-- `XOR (IY+d)` (R281). -/
  | xorIndIy (d : Byte)
  /-- `XOR IYh` (R281). -/
  | xorIyHalf (h : Half)
  /-- `OR (IY+d)` (R282). -/
  | orIndIy (d : Byte)
  /-- `OR IYh` (R282). -/
  | orIyHalf (h : Half)
  /-- `CP (IY+d)` (R283). -/
  | cpIndIy (d : Byte)
  /-- `CP IYh` (R283). -/
  | cpIyHalf (h : Half)
  /-- `POP IY` (R213). -/
  | popIy
  /-- `EX (SP),IY` (R244). -/
  | exIndSpIy
  /-- `PUSH IY` (R211). -/
  | pushIy
  /-- `JP (IY)` (R409). -/
  | jpIy
  /-- `LD SP,IY` (R209). -/
  | ldSpIy
  -- FDCB table (R137)
  /-- `RLC (IY+d)` (R355). -/
  | rlcIndIy (d : Byte)
  /-- `RLC (IY+d),r` (R365). -/
  | rlcIndIyR (d : Byte) (r : Reg8)
  /-- `RRC (IY+d)` (R357). -/
  | rrcIndIy (d : Byte)
  /-- `RRC (IY+d),r` (R365). -/
  | rrcIndIyR (d : Byte) (r : Reg8)
  /-- `RL (IY+d)` (R356). -/
  | rlIndIy (d : Byte)
  /-- `RL (IY+d),r` (R365). -/
  | rlIndIyR (d : Byte) (r : Reg8)
  /-- `RR (IY+d)` (R358). -/
  | rrIndIy (d : Byte)
  /-- `RR (IY+d),r` (R365). -/
  | rrIndIyR (d : Byte) (r : Reg8)
  /-- `SLA (IY+d)` (R359). -/
  | slaIndIy (d : Byte)
  /-- `SLA (IY+d),r` (R365). -/
  | slaIndIyR (d : Byte) (r : Reg8)
  /-- `SRA (IY+d)` (R360). -/
  | sraIndIy (d : Byte)
  /-- `SRA (IY+d),r` (R365). -/
  | sraIndIyR (d : Byte) (r : Reg8)
  /-- `SLL (IY+d)` (R362). -/
  | sllIndIy (d : Byte)
  /-- `SLL (IY+d),r` (R365). -/
  | sllIndIyR (d : Byte) (r : Reg8)
  /-- `SRL (IY+d)` (R361). -/
  | srlIndIy (d : Byte)
  /-- `SRL (IY+d),r` (R365). -/
  | srlIndIyR (d : Byte) (r : Reg8)
  /-- `BIT b,(IY+d)` (R382). -/
  | bitBIndIy (b : BitVec 3) (d : Byte)
  /-- `BIT b,(IY+d) (alias)` (R382). -/
  | bitBIndIyAlias (b : BitVec 3) (d : Byte) (y : Reg8)
  /-- `RES b,(IY+d)` (R388). -/
  | resBIndIy (b : BitVec 3) (d : Byte)
  /-- `RES b,(IY+d),r` (R389). -/
  | resBIndIyR (b : BitVec 3) (d : Byte) (r : Reg8)
  /-- `SET b,(IY+d)` (R385). -/
  | setBIndIy (b : BitVec 3) (d : Byte)
  /-- `SET b,(IY+d),r` (R389). -/
  | setBIndIyR (b : BitVec 3) (d : Byte) (r : Reg8)
  -- ED table (R134)
  /-- `IN r,(C)` (R431). -/
  | inRPortC (r : Reg8)
  /-- `IN (C)` (R432). -/
  | inPortC
  /-- `OUT (C),r` (R438). -/
  | outPortCR (r : Reg8)
  /-- `OUT (C),0` (R439). -/
  | outPortCZero
  /-- `SBC HL,ss` (R332). -/
  | sbcHlSs (p : Pair)
  /-- `ADC HL,ss` (R331). -/
  | adcHlSs (p : Pair)
  /-- `LD (nn),dd` (R206). -/
  | ldIndNnDd (p : Pair) (nn : Word)
  /-- `LD dd,(nn)` (R203). -/
  | ldDdIndNn (p : Pair) (nn : Word)
  /-- `NEG` (R312). -/
  | neg
  /-- `NEG (mirror)` (R312). -/
  | negMirror (y : BitVec 3)
  /-- `RETN` (R416). -/
  | retn
  /-- `RETI` (R415). -/
  | reti
  /-- `RETN (mirror)` (R416). -/
  | retnMirror (y : BitVec 3)
  /-- `IM 0` (R319). -/
  | im0
  /-- `IM 1` (R320). -/
  | im1
  /-- `IM 2` (R321). -/
  | im2
  /-- `IM 0 (mirror)` (R319). -/
  | im0Mirror (y : BitVec 3)
  /-- `IM 1 (mirror)` (R320). -/
  | im1Mirror
  /-- `IM 2 (mirror)` (R321). -/
  | im2Mirror
  /-- `LD I,A` (R177). -/
  | ldIA
  /-- `LD R,A` (R178). -/
  | ldRA
  /-- `LD A,I` (R175). -/
  | ldAI
  /-- `LD A,R` (R176). -/
  | ldAR
  /-- `RRD` (R364). -/
  | rrd
  /-- `RLD` (R363). -/
  | rld
  /-- `LDI` (R245). -/
  | ldi
  /-- `CPI` (R249). -/
  | cpi
  /-- `INI` (R433). -/
  | ini
  /-- `OUTI` (R440). -/
  | outi
  /-- `LDD` (R247). -/
  | ldd
  /-- `CPD` (R251). -/
  | cpd
  /-- `IND` (R435). -/
  | ind
  /-- `OUTD` (R442). -/
  | outd
  /-- `LDIR` (R246). -/
  | ldir
  /-- `CPIR` (R250). -/
  | cpir
  /-- `INIR` (R434). -/
  | inir
  /-- `OTIR` (R441). -/
  | otir
  /-- `LDDR` (R248). -/
  | lddr
  /-- `CPDR` (R252). -/
  | cpdr
  /-- `INDR` (R436). -/
  | indr
  /-- `OTDR` (R443). -/
  | otdr
deriving DecidableEq, Repr

end Sys2Proof
end

