-- ==== Sys2Proof/Machine/State.lean ====
section
/-! DEFINITION. The state of the machine as plain data (R20 to R56 of spec/10_state.md, R500 to R512 and R550 to R556 of
spec/65_platform_devices.md), the reasons a step can stop, and the state after reset (R580 to R584 of spec/70_reset_and_hazards.md). -/

namespace Sys2Proof.Machine

/-! ### Why a step stops -/

/-- The two faults of the machine (R464). Both leave the state as it was before the step (R460, R461); the driver has that state. -/
inductive Fault where
  /-- Raised by the fetch of an unset table entry (R460). Safe: the spec's own fault. -/
  | unimplementedOpcode (table : OpTable) (op : Byte)
  /-- Raised by a write of an unsupported control byte to 0xFFFC under the SEGA mapper (R461). Safe: the spec's own fault. -/
  | unsupportedMapperControl (v : Byte)
deriving DecidableEq, Repr

/-- Refusals. No instruction of this model is refused. -/
inductive Refusal where
  /-- Raised by no meaning: the arm of an instruction that had no meaning yet would answer it. Safe. -/
  | notModelled (mnemonic : String)
deriving DecidableEq, Repr

/-! ### The CPU -/

/-- One set of the eight 8-bit registers (R22, R24). -/
structure RegSet where
  a : Byte
  f : Byte
  b : Byte
  c : Byte
  d : Byte
  e : Byte
  h : Byte
  l : Byte
deriving DecidableEq, Repr

/-- The interrupt mode (R42). -/
inductive IntMode where
  | im0 | im1 | im2
deriving DecidableEq, Repr

/-! ### The MMU and the cartridge -/

/-- The mapper kind (R9, R85). -/
inductive Mapper where
  | sega | codemasters | korean
deriving DecidableEq, Repr

/-- The MMU with the cartridge behind it (R51, R80, R82). `rom` and `mapper` are arguments of the machine, written by no rule; the bank
count is the ROM's (`Mmu.bankCount`). -/
structure Mmu where
  rom       : Rom
  mapper    : Mapper
  slot0     : Nat
  slot1     : Nat
  slot2     : Nat
  ramEnable : Bool
  ramBank   : Bool
  sysRam    : Memory
  cartRam   : Memory
deriving DecidableEq, Repr

/-! ### The VDP -/

/-- The data-port write mode (R505). -/
inductive VdpMode where
  | vram | cram
deriving DecidableEq, Repr

/-- The VDP (R500 to R511). -/
structure Vdp where
  reg         : Vector Byte 11
  vram        : Memory
  cram        : Memory
  addr        : BitVec 14
  mode        : VdpMode
  latch       : Byte
  pending     : Bool
  readBuf     : Byte
  status      : Byte
  hCounter    : Nat
  vCounter    : Byte
  line        : Nat
  lineCounter : Byte
deriving DecidableEq, Repr

/-- One pixel of the buffer: four bytes R, G, B, A (R540). -/
structure Rgba where
  r : Byte
  g : Byte
  b : Byte
  a : Byte
deriving DecidableEq, Repr

/-! ### The PSG -/

/-- The register type a latch byte selects (R552). -/
inductive LatchType where
  | tone | volume
deriving DecidableEq, Repr

/-- The level of a square wave (R550): +1 or -1. -/
inductive Level where
  | plus | minus
deriving DecidableEq, Repr

/-- A write event: the byte and the CPU cycle it was issued at (R555). -/
structure PsgEvent where
  byte  : Byte
  cycle : Nat
deriving DecidableEq, Repr

/-- The PSG (R550 to R555). `phase`, `noisePhase` and `clock` count in units of 1/SAMPLE_RATE of a CPU cycle (log entry 13); `noisePhase`
is the model's own (log entry 14). -/
structure Psg where
  tone       : Vector (BitVec 10) 3
  noise      : BitVec 3
  vol        : Vector (BitVec 4) 4
  latchCh    : BitVec 2
  latchType  : LatchType
  phase      : Vector Nat 3
  out        : Vector Level 3
  noisePos   : Nat
  noisePhase : Nat
  clock      : Nat
  fifo       : List PsgEvent
deriving DecidableEq, Repr

/-! ### The other agents -/

/-- What the host feeds the machine: the button bits of `JOYPAD()` (R99) and `JOYPAD_B()` (R100). -/
structure Inputs where
  buttons : BitVec 6
  joypadB : Byte
deriving DecidableEq, Repr

/-- What the machine hands the host: the pixel buffer by line, a line that was never rendered being absent (R540, U11); whether the last
`advance` crossed the frame boundary (R532); the samples, oldest first (R565). -/
structure Outputs where
  screen    : List (Nat × List Rgba)
  frameDone : Bool
  audio     : List Rat
deriving DecidableEq, Repr

/-- The arguments of `reset` (R580) and the host's inputs at that moment. -/
structure ResetParams where
  rom     : Rom
  mapper  : Mapper
  main    : RegSet
  shadow  : RegSet
  ixh     : Byte
  ixl     : Byte
  iyh     : Byte
  iyl     : Byte
  sp      : Word
  sysRam  : List Host.Cell
  cartRam : List Host.Cell
  vram    : List Host.Cell
  cram    : List Host.Cell
  inputs  : Inputs
deriving DecidableEq, Repr

/-- One turn of one agent (R17). -/
inductive Turn where
  /-- The driver: one CPU step, then the VDP is advanced (R471). -/
  | driver
  /-- The mixer: one `mixOne` (R563). -/
  | mixer
  /-- The host sets `pendingNMI` (R17, R44). -/
  | raiseNmi
  /-- The host changes the buttons held (R99). -/
  | setButtons (v : BitVec 6)
  /-- The host changes `JOYPAD_B` (R100). -/
  | setJoypadB (v : Byte)
  /-- The host presents the frame that `advance` announced (R532). -/
  | takeFrame
  /-- The host's audio sink takes the `n` oldest samples (R565). -/
  | takeSamples (n : Nat)
  /-- The host tears the machine down and constructs it anew (R17, R580): all four blocks and the FIFO, wholesale. `next` holds the
  arguments of that construction; a host that stops emulation for good constructs none and the run ends there (R19; log entry 26). -/
  | teardown (next : ResetParams)
deriving DecidableEq, Repr

/-- The whole machine. -/
structure State where
  main       : RegSet
  shadow     : RegSet
  ixh        : Byte
  ixl        : Byte
  iyh        : Byte
  iyl        : Byte
  sp         : Word
  pc         : Word
  i          : Byte
  r          : Byte
  iff1       : Bool
  iff2       : Bool
  im         : IntMode
  pendingInt : Bool
  pendingNmi : Bool
  halted     : Bool
  postEi     : Bool
  cycles     : Nat
  mmu        : Mmu
  vdp        : Vdp
  psg        : Psg
  inputs     : Inputs
  outputs    : Outputs
  /-- The agents' next turns, the empty list meaning the driver: the model's own field (log entry 4). -/
  schedule   : List Turn
  /-- How many free values were drawn: the model's own field (log entry 6). -/
  freeDraws  : Nat
deriving DecidableEq, Repr

/-- The outcome of a step or of part of one. -/
abbrev Result := Host.Outcome State Fault Refusal

/-! ### Reset -/

/-- All eight registers zero. -/
def RegSet.zero : RegSet := { a := 0, f := 0, b := 0, c := 0, d := 0, e := 0, h := 0, l := 0 }

/-- The arguments the model names for `State.reset`: every register of RESET_REGS zero (log entry 1), nothing listed in any memory (log
entry 2), the smallest cartridge and the SEGA mapper (log entry 3), no button held (R584). -/
def ResetParams.named : ResetParams :=
  { rom := { cells := [], moreBanks := 0 }, mapper := .sega,
    main := RegSet.zero, shadow := RegSet.zero, ixh := 0, ixl := 0, iyh := 0, iyl := 0, sp := 0,
    sysRam := [], cartRam := [], vram := [], cram := [],
    inputs := { buttons := 0x3F, joypadB := 0xFF } }

/-- The MMU at reset (R583), its memories in their sizes (R51, R82). -/
def Mmu.resetWith (p : ResetParams) : Mmu :=
  { rom := p.rom.normal, mapper := p.mapper, slot0 := 0, slot1 := 1, slot2 := 2, ramEnable := false, ramBank := false,
    sysRam := Memory.ofCells 0x2000 p.sysRam, cartRam := Memory.ofCells 0x8000 p.cartRam }

/-- The VDP at reset (R512), its memories in their sizes (R503, R504). -/
def Vdp.resetWith (vram cram : List Host.Cell) : Vdp :=
  { reg := Vector.replicate 11 0, vram := Memory.ofCells 0x4000 vram, cram := Memory.ofCells 0x20 cram, addr := 0, mode := .vram,
    latch := 0, pending := false, readBuf := 0, status := 0, hCounter := 0, vCounter := 0, line := 0, lineCounter := 0 }

/-- The PSG at reset (R556). -/
def Psg.reset : Psg :=
  { tone := Vector.replicate 3 0, noise := 0, vol := Vector.replicate 4 0xF, latchCh := 0, latchType := .tone,
    phase := Vector.replicate 3 0, out := Vector.replicate 3 .plus, noisePos := 0, noisePhase := 0, clock := 0, fifo := [] }

/-- `reset` as a function of its arguments (R580 to R584), for the driver alone (log entry 4). -/
def State.resetWith (p : ResetParams) : State :=
  { main := p.main, shadow := p.shadow, ixh := p.ixh, ixl := p.ixl, iyh := p.iyh, iyl := p.iyl, sp := p.sp,
    pc := 0x0000, i := 0x00, r := 0x00, iff1 := false, iff2 := false, im := .im0,
    pendingInt := false, pendingNmi := false, halted := false, postEi := false, cycles := 0,
    mmu := Mmu.resetWith p, vdp := Vdp.resetWith p.vram p.cram, psg := Psg.reset,
    inputs := p.inputs, outputs := { screen := [], frameDone := false, audio := [] },
    schedule := [], freeDraws := 0 }

/-- The machine right after reset, with the arguments the model names. -/
def State.reset : State := State.resetWith ResetParams.named

end Sys2Proof.Machine
end

