-- ==== Sys2Proof/Machine/Flags.lean ====
section
/-! DEFINITION. The flag register (R30) and every flag computation of the instruction rules: the ALU helpers (R270 to R274), the 16-bit
helpers (R331, R332, R338), rotates and shifts (R350 to R362), bit tests (R390), decimal adjustment (R310), input (R431), block transfer,
search and I/O (R245, R249, R445). -/

namespace Sys2Proof.Machine

/-! ### F as eight flags -/

/-- F from its flags, bit 7 to bit 0: S, Z, Y, H, X, PV, N, C (R30). -/
def packFlags (s z y h x pv n c : Bool) : Byte :=
  BitVec.ofBool s ++ BitVec.ofBool z ++ BitVec.ofBool y ++ BitVec.ofBool h ++
    BitVec.ofBool x ++ BitVec.ofBool pv ++ BitVec.ofBool n ++ BitVec.ofBool c

def flagS (f : Byte) : Bool := f.getLsbD 7
def flagZ (f : Byte) : Bool := f.getLsbD 6
def flagY (f : Byte) : Bool := f.getLsbD 5
def flagH (f : Byte) : Bool := f.getLsbD 4
def flagX (f : Byte) : Bool := f.getLsbD 3
def flagPV (f : Byte) : Bool := f.getLsbD 2
def flagN (f : Byte) : Bool := f.getLsbD 1
def flagC (f : Byte) : Bool := f.getLsbD 0

/-- `parity(v)` (R10): true when the number of 1 bits is even. -/
def parity (v : Byte) : Bool :=
  !(v.getLsbD 0 ^^ v.getLsbD 1 ^^ v.getLsbD 2 ^^ v.getLsbD 3 ^^ v.getLsbD 4 ^^ v.getLsbD 5 ^^ v.getLsbD 6 ^^ v.getLsbD 7)

/-- The value and the new F of an 8-bit operation. -/
structure Out8 where
  res   : Byte
  flags : Byte
deriving DecidableEq, Repr

/-- The value and the new F of a 16-bit operation. -/
structure Out16 where
  res   : Word
  flags : Byte
deriving DecidableEq, Repr

/-! ### 8-bit arithmetic and logic (spec/43_alu8.md) -/

/-- `add8(a, b, c)` (R270). -/
def add8 (a b : Byte) (c : Bool) : Out8 :=
  let t := a.toNat + b.toNat + c.toNat
  let res := BitVec.ofNat 8 t
  { res := res
    flags := packFlags (res.getLsbD 7) (res == 0) (res.getLsbD 5)
      (decide (0x0F < (a &&& 0x0F).toNat + (b &&& 0x0F).toNat + c.toNat)) (res.getLsbD 3)
      (((a ^^^ res) &&& (b ^^^ res) &&& 0x80) != 0) false (decide (0xFF < t)) }

/-- `sub8(a, b, c)` (R271). -/
def sub8 (a b : Byte) (c : Bool) : Out8 :=
  let t : Int := (a.toNat : Int) - b.toNat - c.toNat
  let res := BitVec.ofInt 8 t
  { res := res
    flags := packFlags (res.getLsbD 7) (res == 0) (res.getLsbD 5)
      (decide (((a &&& 0x0F).toNat : Int) - (b &&& 0x0F).toNat - c.toNat < 0)) (res.getLsbD 3)
      (((a ^^^ b) &&& (a ^^^ res) &&& 0x80) != 0) true (decide (t < 0)) }

/-- The flags of `logic` (R272) for a result, with H as given. -/
def logicFlags (res : Byte) (h : Bool) : Byte :=
  packFlags (res.getLsbD 7) (res == 0) (res.getLsbD 5) h (res.getLsbD 3) (parity res) false false

/-- The eight accumulator operations (R130, R275). -/
inductive AluOp where
  | add | adc | sub | sbc | and | xor | or | cp
deriving DecidableEq, Repr

/-- An accumulator operation on A, the operand and the old F (R276 to R283): the new A and F. CP keeps A and takes Y and X from the
operand (R283). -/
def AluOp.run (op : AluOp) (a v f : Byte) : Out8 :=
  match op with
  | .add => add8 a v false
  | .adc => add8 a v (flagC f)
  | .sub => sub8 a v false
  | .sbc => sub8 a v (flagC f)
  | .and => { res := a &&& v, flags := logicFlags (a &&& v) true }
  | .xor => { res := a ^^^ v, flags := logicFlags (a ^^^ v) false }
  | .or => { res := a ||| v, flags := logicFlags (a ||| v) false }
  | .cp =>
    let g := (sub8 a v false).flags
    { res := a
      flags := packFlags (flagS g) (flagZ g) (v.getLsbD 5) (flagH g) (v.getLsbD 3) (flagPV g) (flagN g) (flagC g) }

/-- `inc8(v)` (R273): C unchanged. -/
def inc8 (v f : Byte) : Out8 :=
  let res := v + 1
  { res := res
    flags := packFlags (res.getLsbD 7) (res == 0) (res.getLsbD 5) ((v &&& 0x0F) == 0x0F) (res.getLsbD 3) (v == 0x7F) false
      (flagC f) }

/-- `dec8(v)` (R274): C unchanged. -/
def dec8 (v f : Byte) : Out8 :=
  let res := v - 1
  { res := res
    flags := packFlags (res.getLsbD 7) (res == 0) (res.getLsbD 5) ((v &&& 0x0F) == 0x00) (res.getLsbD 3) (v == 0x80) true
      (flagC f) }

/-! ### Accumulator and flag operations (spec/44_gp_arith_control.md) -/

/-- `DAA` (R310): all tests use A and F as they were. -/
def daa (a f : Byte) : Out8 :=
  let low := a &&& 0x0F
  let corr : Byte := (if flagH f ∨ 9 < low then 0x06 else 0) ||| (if flagC f ∨ 0x99 < a then 0x60 else 0)
  let res := if flagN f then a - corr else a + corr
  let h := if flagN f then flagH f && decide (low < 6) else decide (9 < low)
  { res := res
    flags := packFlags (res.getLsbD 7) (res == 0) (res.getLsbD 5) h (res.getLsbD 3) (parity res) (flagN f)
      (flagC f || decide (0x99 < a)) }

/-- `CPL` (R311). -/
def cpl (a f : Byte) : Out8 :=
  let res := ~~~a
  { res := res
    flags := packFlags (flagS f) (flagZ f) (res.getLsbD 5) true (res.getLsbD 3) (flagPV f) true (flagC f) }

/-- The new F of `CCF` (R313). -/
def ccfFlags (a f : Byte) : Byte :=
  packFlags (flagS f) (flagZ f) (a.getLsbD 5) (flagC f) (a.getLsbD 3) (flagPV f) false (!flagC f)

/-- The new F of `SCF` (R314). -/
def scfFlags (a f : Byte) : Byte :=
  packFlags (flagS f) (flagZ f) (a.getLsbD 5) false (a.getLsbD 3) (flagPV f) false true

/-- The new F of `LD A,I` and `LD A,R` (R175, R176). -/
def ldAIRFlags (v : Byte) (iff2 : Bool) (f : Byte) : Byte :=
  packFlags (v.getLsbD 7) (v == 0) (v.getLsbD 5) false (v.getLsbD 3) iff2 false (flagC f)

/-! ### 16-bit arithmetic (spec/45_alu16.md) -/

/-- `add16(a, b)` (R338): S, Z, PV unchanged. -/
def add16 (a b : Word) (f : Byte) : Out16 :=
  let t := a.toNat + b.toNat
  let res := BitVec.ofNat 16 t
  { res := res
    flags := packFlags (flagS f) (flagZ f) (res.getLsbD 13)
      (decide (0x0FFF < (a &&& 0x0FFF).toNat + (b &&& 0x0FFF).toNat)) (res.getLsbD 11) (flagPV f) false (decide (0xFFFF < t)) }

/-- The operation of `ADC HL,ss` (R331). -/
def adc16 (a b : Word) (c : Bool) : Out16 :=
  let t := a.toNat + b.toNat + c.toNat
  let res := BitVec.ofNat 16 t
  { res := res
    flags := packFlags (res.getLsbD 15) (res == 0) (res.getLsbD 13)
      (decide (0x0FFF < (a &&& 0x0FFF).toNat + (b &&& 0x0FFF).toNat + c.toNat)) (res.getLsbD 11)
      (((a ^^^ res) &&& (b ^^^ res) &&& 0x8000) != 0) false (decide (0xFFFF < t)) }

/-- The operation of `SBC HL,ss` (R332). -/
def sbc16 (a b : Word) (c : Bool) : Out16 :=
  let t : Int := (a.toNat : Int) - b.toNat - c.toNat
  let res := BitVec.ofInt 16 t
  { res := res
    flags := packFlags (res.getLsbD 15) (res == 0) (res.getLsbD 13)
      (decide (((a &&& 0x0FFF).toNat : Int) - (b &&& 0x0FFF).toNat - c.toNat < 0)) (res.getLsbD 11)
      (((a ^^^ b) &&& (a ^^^ res) &&& 0x8000) != 0) true (decide (t < 0)) }

/-! ### Rotates and shifts (spec/46_rotate_shift.md) -/

/-- The eight operations of the CB table's first quarter (R130). -/
inductive RotOp where
  | rlc | rrc | rl | rr | sla | sra | sll | srl
deriving DecidableEq, Repr

/-- The result of `f` of R354 on `v` with the old carry (R355 to R362). -/
def RotOp.res (op : RotOp) (v : Byte) (carry : Bool) : Byte :=
  match op with
  | .rlc => v.extractLsb' 0 7 ++ BitVec.ofBool (v.getLsbD 7)
  | .rrc => BitVec.ofBool (v.getLsbD 0) ++ v.extractLsb' 1 7
  | .rl => v.extractLsb' 0 7 ++ BitVec.ofBool carry
  | .rr => BitVec.ofBool carry ++ v.extractLsb' 1 7
  | .sla => v.extractLsb' 0 7 ++ 0#1
  | .sra => BitVec.ofBool (v.getLsbD 7) ++ v.extractLsb' 1 7
  | .sll => v.extractLsb' 0 7 ++ 1#1
  | .srl => 0#1 ++ v.extractLsb' 1 7

/-- The bit moved into C: bit 7 for the left operations, bit 0 for the right ones (R355 to R362). -/
def RotOp.carry (op : RotOp) (v : Byte) : Bool :=
  match op with
  | .rlc | .rl | .sla | .sll => v.getLsbD 7
  | .rrc | .rr | .sra | .srl => v.getLsbD 0

/-- A CB-table rotate or shift with its flags (R354). -/
def RotOp.run (op : RotOp) (v f : Byte) : Out8 :=
  let res := op.res v (flagC f)
  { res := res
    flags := packFlags (res.getLsbD 7) (res == 0) (res.getLsbD 5) false (res.getLsbD 3) (parity res) false (op.carry v) }

/-- An accumulator rotate (R350 to R353): S, Z, PV unchanged. -/
def RotOp.runAcc (op : RotOp) (v f : Byte) : Out8 :=
  let res := op.res v (flagC f)
  { res := res
    flags := packFlags (flagS f) (flagZ f) (res.getLsbD 5) false (res.getLsbD 3) (flagPV f) false (op.carry v) }

/-- The new F of `RLD` and `RRD` for the new A (R363, R364): C unchanged. -/
def digitFlags (a f : Byte) : Byte :=
  packFlags (a.getLsbD 7) (a == 0) (a.getLsbD 5) false (a.getLsbD 3) (parity a) false (flagC f)

/-! ### Bit test, set, reset (spec/47_bit.md) -/

/-- `bitflags(b, v, yx)` (R390). -/
def bitFlags (b : BitVec 3) (v yx f : Byte) : Byte :=
  let t := v.getLsbD b.toNat
  packFlags (decide (b = 7) && t) (!t) (yx.getLsbD 5) true (yx.getLsbD 3) (!t) false (flagC f)

/-- `1 << b` as a byte (R383, R386). -/
def bitMask (b : BitVec 3) : Byte := 1#8 <<< b.toNat

/-- `SET` on a value (R383): no flag changes. -/
def setBit (b : BitVec 3) (v f : Byte) : Out8 := { res := v ||| bitMask b, flags := f }

/-- `RES` on a value (R386): no flag changes. -/
def resBit (b : BitVec 3) (v f : Byte) : Out8 := { res := v &&& ~~~bitMask b, flags := f }

/-! ### Block transfer, block search, input and block I/O -/

/-- The new F of `LDI` and `LDD` (R245, R247): `v` the byte moved, `bc` the new BC. -/
def blockMoveFlags (a v : Byte) (bc : Word) (f : Byte) : Byte :=
  let n := a + v
  packFlags (flagS f) (flagZ f) (n.getLsbD 1) false (n.getLsbD 3) (bc != 0) false (flagC f)

/-- The new F of `CPI` and `CPD` (R249, R251): `v` the byte compared, `bc` the new BC. -/
def blockSearchFlags (a v : Byte) (bc : Word) (f : Byte) : Byte :=
  let res := a - v
  let h := decide ((a &&& 0x0F) < (v &&& 0x0F))
  let n := res - (if h then 1 else 0)
  packFlags (res.getLsbD 7) (res == 0) (n.getLsbD 1) h (n.getLsbD 3) (bc != 0) true (flagC f)

/-- The new F of `IN r,(C)` and `IN (C)` (R431): C unchanged. -/
def inFlags (v f : Byte) : Byte :=
  packFlags (v.getLsbD 7) (v == 0) (v.getLsbD 5) false (v.getLsbD 3) (parity v) false (flagC f)

/-- `ioflags(v, k, b)` (R445): `k` the 9-bit sum, `b` the new B. -/
def ioFlags (v : Byte) (k : Nat) (b : Byte) : Byte :=
  packFlags (b.getLsbD 7) (b == 0) (b.getLsbD 5) (decide (255 < k)) (b.getLsbD 3) (parity (BitVec.ofNat 8 (k % 8) ^^^ b))
    (v.getLsbD 7) (decide (255 < k))

/-! ### Conditions (spec/48_jump_call.md) -/

/-- `cond(cc)` (R400). -/
def condHolds (cc : Cond) (f : Byte) : Bool :=
  match cc with
  | .nz => !flagZ f
  | .z => flagZ f
  | .nc => !flagC f
  | .c => flagC f
  | .po => !flagPV f
  | .pe => flagPV f
  | .p => !flagS f
  | .m => flagS f

end Sys2Proof.Machine
end

