-- ==== Sys2Proof/Machine/Mmu.lean ====
section
/-! DEFINITION. The MMU (spec/20_memory.md): which cell a 16-bit address names, reading it, and writing through the three mapper
protocols. -/

namespace Sys2Proof.Machine

/-- A cell of a memory behind the MMU, by its offset there. -/
inductive Place where
  | rom (off : Nat)
  | cartRam (off : Nat)
  | sysRam (off : Nat)
deriving DecidableEq, Repr

/-- `BANK_COUNT` (R9): derived from the ROM. -/
def Mmu.bankCount (m : Mmu) : Nat := m.rom.bankCount

/-- The cell an address names (R73, R75, R81). -/
def Mmu.place (m : Mmu) (addr : Word) : Place :=
  let a := addr.toNat
  if a ≤ 0x03FF then .rom a
  else if a ≤ 0x3FFF then .rom (m.slot0 * 0x4000 + a)
  else if a ≤ 0x7FFF then .rom (m.slot1 * 0x4000 + (a - 0x4000))
  else if a ≤ 0xBFFF then
    if m.ramEnable then .cartRam (m.ramBank.toNat * 0x4000 + (a - 0x8000))
    else .rom (m.slot2 * 0x4000 + (a - 0x8000))
  else .sysRam (a % 0x2000)

/-- The byte a cell holds. -/
def Mmu.readPlace (m : Mmu) : Place → Byte
  | .rom off => m.rom.read off
  | .cartRam off => m.cartRam.read off
  | .sysRam off => m.sysRam.read off

/-- `MemRead(addr, 1)` (R73). -/
def Mmu.read (m : Mmu) (addr : Word) : Byte := m.readPlace (m.place addr)

/-- `setMapperSlot(k, b)` (R86): the bank number is taken modulo the bank count. -/
def Mmu.setMapperSlot (m : Mmu) (k : Nat) (b : Byte) : Mmu :=
  match k with
  | 0 => { m with slot0 := b.toNat % m.bankCount }
  | 1 => { m with slot1 := b.toNat % m.bankCount }
  | _ => { m with slot2 := b.toNat % m.bankCount }

/-- The control bits the machine does not support (R87): bit 4 (RAM override) and bits 1:0 (bank shift). -/
def unsupportedControl (v : Byte) : Bool := v.getLsbD 4 || v.extractLsb' 0 2 != 0

/-- The two bits of a supported control byte that have an effect (R87): bit 3 RAM enable, bit 2 RAM bank select. -/
def Mmu.setMapperControl (m : Mmu) (v : Byte) : Mmu :=
  { m with ramEnable := v.getLsbD 3, ramBank := v.getLsbD 2 }

/-- The system RAM cell under an address at 0xC000 or above (R74, R76). -/
def Mmu.putSysRam (m : Mmu) (a : Nat) (v : Byte) : Mmu := { m with sysRam := m.sysRam.write (a % 0x2000) v }

/-- The cartridge RAM cell under an address in 0x8000-0xBFFF (R74, R88). -/
def Mmu.putCartRam (m : Mmu) (a : Nat) (v : Byte) : Mmu :=
  { m with cartRam := m.cartRam.write (m.ramBank.toNat * 0x4000 + (a - 0x8000)) v }

/-- `MemWrite(addr, 1, v)` (R74): the mapper registers of each protocol, RAM, or an ignored write to ROM (R90). The control byte is
checked before anything is written (R87). -/
def Mmu.write (m : Mmu) (addr : Word) (v : Byte) : Except Fault Mmu :=
  let a := addr.toNat
  if 0xC000 ≤ a then
    match m.mapper with
    | .sega =>
      if a = 0xFFFC then
        if unsupportedControl v then .error (.unsupportedMapperControl v)
        else .ok ((m.putSysRam a v).setMapperControl v)
      else if a = 0xFFFD then .ok ((m.putSysRam a v).setMapperSlot 0 v)
      else if a = 0xFFFE then .ok ((m.putSysRam a v).setMapperSlot 1 v)
      else if a = 0xFFFF then .ok ((m.putSysRam a v).setMapperSlot 2 v)
      else .ok (m.putSysRam a v)
    | .codemasters => .ok (m.putSysRam a v)
    | .korean => .ok (m.putSysRam a v)
  else if 0x8000 ≤ a then
    if m.ramEnable then .ok (m.putCartRam a v)
    else if m.mapper = .codemasters ∧ a = 0x8000 then .ok (m.setMapperSlot 2 v)
    else if m.mapper = .korean ∧ a = 0xA000 then .ok (m.setMapperSlot 2 v)
    else .ok m
  else if m.mapper = .codemasters ∧ a = 0x0000 then .ok (m.setMapperSlot 0 v)
  else if m.mapper = .codemasters ∧ a = 0x4000 then .ok (m.setMapperSlot 1 v)
  else .ok m

/-- A byte put into the cell an address names, past the mapper: what a loader outside the machine does. No instruction uses it. -/
def Mmu.load (m : Mmu) (addr : Word) (v : Byte) : Mmu :=
  match m.place addr with
  | .rom off => { m with rom := m.rom.load off v }
  | .cartRam off => { m with cartRam := m.cartRam.write off v }
  | .sysRam off => { m with sysRam := m.sysRam.write off v }

end Sys2Proof.Machine
end

