-- ==== Sys2Proof/Machine/Psg.lean ====
section
/-! DEFINITION. The PSG (spec/65_platform_devices.md section 5): the event FIFO, the byte protocol and the mixer. Clocks count in units of
1/SAMPLE_RATE of a CPU cycle, so that CLOCK_RATIO cycles are CPU_CLOCK_HZ units (log entry 13). -/

namespace Sys2Proof.Machine

/-- `PSG.write(v)` (R557): the byte and the CPU cycle go to the tail of the FIFO, nothing else happens. -/
def Psg.write (p : Psg) (v : Byte) (cycle : Nat) : Psg := { p with fifo := p.fifo ++ [{ byte := v, cycle := cycle }] }

/-- A volume or noise register, or the bits of a tone register a byte carries (R558): `low` for a latch byte, the high six bits for a
data byte. A write to the noise register restarts `noisePos`; that the count towards the next noise step, `noisePhase`, goes on from where
it is is the model's choice, the spec being silent (DESIGN CHOICE, log entry 14). -/
def Psg.setLatched (p : Psg) (v : Byte) (low : Bool) : Psg :=
  let ch := p.latchCh.toNat
  match p.latchType with
  | .volume => { p with vol := p.vol.setIfInBounds ch (v.extractLsb' 0 4) }
  | .tone =>
    if h : ch < 3 then
      let old := p.tone[ch]
      let new : BitVec 10 :=
        if low then old.extractLsb' 4 6 ++ v.extractLsb' 0 4 else v.extractLsb' 0 6 ++ old.extractLsb' 0 4
      { p with tone := p.tone.set ch new }
    else { p with noise := v.extractLsb' 0 3, noisePos := 0 }

/-- `PSG.apply(v)` (R558): a latch byte selects the channel (bits 6:5) and the register type (bit 4, 1 for volume), then both kinds of byte
write the latched register. -/
def Psg.apply (p : Psg) (v : Byte) : Psg :=
  if v.getLsbD 7 then
    { p with latchCh := v.extractLsb' 5 2, latchType := if v.getLsbD 4 then .volume else .tone }.setLatched v true
  else p.setLatched v false

/-- The events due at the mixer's clock are taken from the head of the FIFO, in order (R563). -/
def Psg.drain (p : Psg) : List PsgEvent → Psg
  | [] => { p with fifo := [] }
  | e :: rest =>
    if e.cycle * Config.sampleRate ≤ p.clock then (p.apply e.byte).drain rest else { p with fifo := e :: rest }

/-- The other level. -/
def Level.flip : Level → Level
  | .plus => .minus
  | .minus => .plus

/-- The half-period of tone channel `c` (R560), in clock units: 16 · max(tone, 1) CPU cycles. -/
def Psg.halfPeriod (p : Psg) (c : Fin 3) : Nat := 16 * max p.tone[c].toNat 1 * Config.sampleRate

/-- One tone channel advanced by CLOCK_RATIO cycles (R560): the level flips once for each half-period that fits (log entry 12). -/
def Psg.advanceTone (p : Psg) (c : Fin 3) : Psg :=
  let total := p.phase[c] + Config.cpuClockHz
  { p with
    phase := p.phase.set c (total % p.halfPeriod c)
    out := p.out.set c (if total / p.halfPeriod c % 2 = 1 then p.out[c].flip else p.out[c]) }

/-- The length of one noise step (R561), in clock units: 16 · k CPU cycles. -/
def Psg.noisePeriod (p : Psg) : Nat :=
  let k := match (p.noise.extractLsb' 0 2).toNat with
    | 0 => 0x10
    | 1 => 0x20
    | 2 => 0x40
    | _ => max p.tone[2].toNat 1
  16 * k * Config.sampleRate

/-- The noise position advanced by CLOCK_RATIO cycles (R561). -/
def Psg.advanceNoise (p : Psg) : Psg :=
  let total := p.noisePhase + Config.cpuClockHz
  { p with noisePhase := total % p.noisePeriod, noisePos := p.noisePos + total / p.noisePeriod }

/-- A level as a number. -/
def Level.value : Level → Rat
  | .plus => 1
  | .minus => -1

/-- `wave[3]` (R561). -/
def Psg.noiseWave (p : Psg) : Rat :=
  let white := p.noise.getLsbD 2
  if Config.noiseBuf white (p.noisePos % (Config.noiseLenPred white + 1)) then 1 else -1

/-- The sum of R563 divided by the channel count (R565). -/
def Psg.sample (p : Psg) : Rat :=
  (p.out[0].value * Config.psgAtten p.vol[0].toNat + p.out[1].value * Config.psgAtten p.vol[1].toNat
    + p.out[2].value * Config.psgAtten p.vol[2].toNat + p.noiseWave * Config.psgAtten p.vol[3].toNat) / 4

/-- `mixOne()` (R563): the sample, and the PSG afterwards. -/
def Psg.mixOne (p : Psg) : Rat × Psg :=
  let q := ((((p.drain p.fifo).advanceTone 0).advanceTone 1).advanceTone 2).advanceNoise
  (q.sample, { q with clock := q.clock + Config.cpuClockHz })

end Sys2Proof.Machine
end

