-- ==== Sys2Proof/Machine/Vdp.lean ====
section
/-! DEFINITION. The VDP's registers, ports, counters and interrupt events (spec/65_platform_devices.md sections 1 to 3). -/

namespace Sys2Proof.Machine

/-! ### Register fields (R501, R502) -/

/-- Bit `b` of register `k`. -/
def Vdp.regBit (v : Vdp) (k : Fin 11) (b : Nat) : Bool := v.reg[k].getLsbD b

/-- IE1, the line-interrupt enable: bit 4 of register 0 (R501). -/
def Vdp.lineIrqEnabled (v : Vdp) : Bool := v.regBit 0 4

/-- IE0, the frame-interrupt enable: bit 5 of register 1 (R501). -/
def Vdp.frameIrqEnabled (v : Vdp) : Bool := v.regBit 1 5

/-- `nameTableBase` (R502). -/
def Vdp.nameTableBase (v : Vdp) : Nat := (v.reg[2] &&& 0x0E).toNat <<< 10

/-- `satBase` (R502). -/
def Vdp.satBase (v : Vdp) : Nat := (v.reg[5] &&& 0x7E).toNat <<< 7

/-- `spritePatternBase` (R502). -/
def Vdp.spritePatternBase (v : Vdp) : Nat := (v.reg[6] &&& 0x04).toNat <<< 11

/-! ### Ports -/

/-- The control word of two bytes, dispatched on its top two bits (R513). -/
def Vdp.controlWord (v : Vdp) (word : Word) : Vdp :=
  let target : BitVec 14 := word.extractLsb' 0 14
  match (word.extractLsb' 14 2).toNat with
  | 0 => { v with mode := .vram, readBuf := v.vram.read target.toNat, addr := target + 1 }
  | 1 => { v with mode := .vram, addr := target }
  | 2 => { v with reg := v.reg.setIfInBounds (word.extractLsb' 8 4).toNat (word.extractLsb' 0 8) }
  | _ => { v with mode := .cram, addr := target }

/-- `VDP.controlWrite(v)` (R513). -/
def Vdp.controlWrite (v : Vdp) (x : Byte) : Vdp :=
  if v.pending then { v with pending := false }.controlWord (x ++ v.latch)
  else { v with latch := x, pending := true }

/-- `VDP.dataWrite(v)` (R514, R515). -/
def Vdp.dataWrite (v : Vdp) (x : Byte) : Vdp :=
  match v.mode with
  | .vram => { v with pending := false, vram := v.vram.write v.addr.toNat x, readBuf := x, addr := v.addr + 1 }
  | .cram => { v with pending := false, cram := v.cram.write (v.addr.toNat % 0x20) x, readBuf := x, addr := v.addr + 1 }

/-- `VDP.dataRead()` (R514, R516): the buffer, and the VDP afterwards. -/
def Vdp.dataRead (v : Vdp) : Byte × Vdp :=
  (v.readBuf, { v with pending := false, readBuf := v.vram.read v.addr.toNat, addr := v.addr + 1 })

/-- `VDP.statusRead()` (R517), but for the CPU's `pendingINT`: the status byte, and the VDP afterwards. -/
def Vdp.statusRead (v : Vdp) : Byte × Vdp :=
  (v.status, { v with status := 0, pending := false })

/-! ### Counters and interrupt events -/

/-- `vcount(l)` (R528). -/
def vcount (l : Nat) : Byte := if l ≤ 0xDA then BitVec.ofNat 8 l else BitVec.ofNat 8 (l - 6)

/-- `lineCounterEvent(l)` (R533): the VDP afterwards, and whether it raises a line interrupt. -/
def Vdp.lineCounterEvent (v : Vdp) (l : Nat) : Vdp × Bool :=
  if l ≤ Config.activeLines then
    if v.lineCounter = 0 then ({ v with lineCounter := v.reg[10] }, v.lineIrqEnabled)
    else ({ v with lineCounter := v.lineCounter - 1 }, false)
  else ({ v with lineCounter := v.reg[10] }, false)

/-- `frameInterruptEvent()` (R531): the VDP afterwards, and whether it raises a frame interrupt. -/
def Vdp.frameInterruptEvent (v : Vdp) : Vdp × Bool :=
  ({ v with status := v.status ||| 0x80 }, v.frameIrqEnabled)

end Sys2Proof.Machine
end

