-- ==== Sys2Proof/Machine/Ports.lean ====
section
/-! DEFINITION. The I/O port space (R95 to R101 of spec/20_memory.md). -/

namespace Sys2Proof.Machine

/-- `JOYPAD()` (R99): bits 7 and 6 read 1. -/
def Inputs.joypad (i : Inputs) : Byte := 0b11#2 ++ i.buttons

/-- A read of a VDP port 0x80-0xBF: even the data port, odd the status, whose read withdraws the CPU's request (R516, R517). -/
def State.vdpRead (s : State) (p : Byte) : Byte × State :=
  if p.getLsbD 0 then (s.vdp.statusRead.1, { s with vdp := s.vdp.statusRead.2, pendingInt := false })
  else (s.vdp.dataRead.1, { s with vdp := s.vdp.dataRead.2 })

/-- `PortRead(p)` (R95): the value, and the state afterwards. -/
def State.portRead (s : State) (p : Byte) : Byte × State :=
  if p ≤ 0x3F then (0xFF, s)
  else if p ≤ 0x7F then
    (if p.getLsbD 0 then BitVec.ofNat 8 s.vdp.hCounter else s.vdp.vCounter, s)
  else if p ≤ 0xBF then s.vdpRead p
  else if p = 0xDE ∨ p = 0xDF then (0xFF, s)
  else (if p.getLsbD 0 then s.inputs.joypadB else s.inputs.joypad, s)

/-- `PortWrite(p, v)` (R96). A PSG event is stamped with the cycle counter as it stands, which is its value at the start of the step
(R446, R557). -/
def State.portWrite (s : State) (p v : Byte) : State :=
  if p ≤ 0x3F then s
  else if p ≤ 0x7F then { s with psg := s.psg.write v s.cycles }
  else if p ≤ 0xBF then
    { s with vdp := if p.getLsbD 0 then s.vdp.controlWrite v else s.vdp.dataWrite v }
  else s

end Sys2Proof.Machine
end

