-- ==== Sys2Proof/Machine/Ops.lean ====
section
/-! DEFINITION. The named operations the instruction rules are written with (R11, R12 of spec/00_scope.md): registers and pairs, memory and
stack, the end of an instruction, and accepting an interrupt (R474, R475) with the return from one (R415, R416). -/

namespace Sys2Proof.Machine

/-- Go on from a next state; a fault or refusal ends the step. -/
def andThen (o : Result) (k : State → Result) : Result :=
  match o with
  | .next s => k s
  | .fault r => .fault r
  | .refused r => .refused r

/-! ### Registers (R11, R22, R25) -/

def RegSet.get (m : RegSet) : Reg8 → Byte
  | .b => m.b | .c => m.c | .d => m.d | .e => m.e | .h => m.h | .l => m.l | .a => m.a

def RegSet.set (m : RegSet) (r : Reg8) (v : Byte) : RegSet :=
  match r with
  | .b => { m with b := v }
  | .c => { m with c := v }
  | .d => { m with d := v }
  | .e => { m with e := v }
  | .h => { m with h := v }
  | .l => { m with l := v }
  | .a => { m with a := v }

namespace State

/-- `r8[r]` (R126). -/
def getR (s : State) (r : Reg8) : Byte := s.main.get r

/-- `r8[r] <- v`. -/
def setR (s : State) (r : Reg8) (v : Byte) : State := { s with main := s.main.set r v }

/-- `A <- v`. -/
def setA (s : State) (v : Byte) : State := { s with main := { s.main with a := v } }

/-- `F <- v`. -/
def setF (s : State) (v : Byte) : State := { s with main := { s.main with f := v } }

def bc (s : State) : Word := wordOf s.main.b s.main.c
def de (s : State) : Word := wordOf s.main.d s.main.e
def hl (s : State) : Word := wordOf s.main.h s.main.l
def af (s : State) : Word := wordOf s.main.a s.main.f

def setBc (s : State) (v : Word) : State := { s with main := { s.main with b := hiByte v, c := loByte v } }
def setDe (s : State) (v : Word) : State := { s with main := { s.main with d := hiByte v, e := loByte v } }
def setHl (s : State) (v : Word) : State := { s with main := { s.main with h := hiByte v, l := loByte v } }
def setAf (s : State) (v : Word) : State := { s with main := { s.main with a := hiByte v, f := loByte v } }
def setSp (s : State) (v : Word) : State := { s with sp := v }

/-- `rp[p]` (R127). -/
def getPair (s : State) : Pair → Word
  | .bc => s.bc | .de => s.de | .hl => s.hl | .sp => s.sp

/-- `rp[p] <- v`. -/
def setPair (s : State) (p : Pair) (v : Word) : State :=
  match p with
  | .bc => s.setBc v
  | .de => s.setDe v
  | .hl => s.setHl v
  | .sp => s.setSp v

/-- `rp2[p]` (R127). -/
def getQPair (s : State) : QPair → Word
  | .bc => s.bc | .de => s.de | .hl => s.hl | .af => s.af

/-- `rp2[p] <- v`. -/
def setQPair (s : State) (p : QPair) (v : Word) : State :=
  match p with
  | .bc => s.setBc v
  | .de => s.setDe v
  | .hl => s.setHl v
  | .af => s.setAf v

/-- A half of IX or IY (R25, R131). -/
def getHalf (s : State) : Idx → Half → Byte
  | .ix, .hi => s.ixh
  | .ix, .lo => s.ixl
  | .iy, .hi => s.iyh
  | .iy, .lo => s.iyl

def setHalf (s : State) (x : Idx) (h : Half) (v : Byte) : State :=
  match x, h with
  | .ix, .hi => { s with ixh := v }
  | .ix, .lo => { s with ixl := v }
  | .iy, .hi => { s with iyh := v }
  | .iy, .lo => { s with iyl := v }

/-- `XY`: IX or IY (R122). -/
def getXY (s : State) (x : Idx) : Word := wordOf (s.getHalf x .hi) (s.getHalf x .lo)

def setXY (s : State) (x : Idx) (v : Word) : State := (s.setHalf x .hi (hiByte v)).setHalf x .lo (loByte v)

/-! ### Memory and stack (R12, R73, R74) -/

/-- `MemRead(addr, 1)`. -/
def read (s : State) (a : Word) : Byte := s.mmu.read a

/-- `MemRead(addr, 2)`: the byte at the lower address is the low byte (R71). -/
def read16 (s : State) (a : Word) : Word := wordOf (s.read (a + 1)) (s.read a)

/-- `MemWrite(addr, 1, v)`. -/
def write (s : State) (a : Word) (v : Byte) : Result :=
  match s.mmu.write a v with
  | .ok m => .next { s with mmu := m }
  | .error f => .fault f

/-- `MemWrite(addr, 2, v)`: the low byte first. -/
def write16 (s : State) (a v : Word) : Result :=
  andThen (s.write a (loByte v)) fun t => t.write (a + 1) (hiByte v)

/-- `Push16(v)`: the high byte at SP - 1, then the low byte at SP - 2 (R12, R26). -/
def push16 (s : State) (v : Word) : Result :=
  andThen ({ s with sp := s.sp - 1 }.write (s.sp - 1) (hiByte v)) fun t =>
    { t with sp := t.sp - 1 }.write (t.sp - 1) (loByte v)

/-- The value `Pop16()` returns (R12). -/
def popValue (s : State) : Word := wordOf (s.read (s.sp + 1)) (s.read s.sp)

/-- The state after `Pop16()`. -/
def popped (s : State) : State := { s with sp := s.sp + 2 }

/-! ### The end of an instruction (R12) -/

/-- `pc <- next` and `cycles += n`, for an instruction of `len` bytes. -/
def done (s : State) (len n : Nat) : State := { s with pc := s.pc + BitVec.ofNat 16 len, cycles := s.cycles + n }

/-- `pc <- target` and `cycles += n`. -/
def jump (s : State) (target : Word) (n : Nat) : State := { s with pc := target, cycles := s.cycles + n }

/-- `R <- (R & 0x80) | ((R + k) & 0x7F)` (R39). -/
def bumpR (s : State) (k : Nat) : State := { s with r := (s.r &&& 0x80) ||| ((s.r + BitVec.ofNat 8 k) &&& 0x7F) }

/-! ### Accepting an interrupt and returning from one -/

/-- What both acceptances do (R474, R475): leave the halted state, disable maskable interrupts, save PC on the stack, go to the handler,
whose address may be read after the push (mode 2), and add 1 to R. `iff2'` is the new IFF2. -/
def acceptInterrupt (s : State) (iff2' : Bool) (vector : State → Word) (cost : Nat) : Result :=
  andThen ({ s with halted := false, iff1 := false, iff2 := iff2' }.push16 s.pc) fun t =>
    .next ((t.jump (vector t) cost).bumpR 1)

/-- NMI acceptance (R474): IFF2 keeps the pre-NMI enable state. -/
def acceptNmi (s : State) : Result :=
  { s with pendingNmi := false }.acceptInterrupt s.iff2 (fun _ => Config.nmiVector) 11

/-- The handler address of a maskable interrupt (R475), read in the state after the push. -/
def intVector (t : State) : Word :=
  match t.im with
  | .im0 => Config.intVectorIm1
  | .im1 => Config.intVectorIm1
  | .im2 => t.read16 (wordOf t.i Config.intBusByte)

/-- The cycles a maskable acceptance costs (R475). -/
def intCost (s : State) : Nat :=
  match s.im with
  | .im0 => 13
  | .im1 => 13
  | .im2 => 19

/-- Maskable-interrupt acceptance (R475). -/
def acceptInt (s : State) : Result :=
  { s with pendingInt := false }.acceptInterrupt false intVector s.intCost

/-- Return from an interrupt handler (R415, R416): `pc <- Pop16(); IFF1 <- IFF2`. -/
def returnFromInterrupt (s : State) : State := { s.popped.jump s.popValue 14 with iff1 := s.iff2 }

end State

end Sys2Proof.Machine
end

