-- ==== Sys2Proof/Machine/Operands.lean ====
section
/-! DEFINITION. The operand forms of the instruction rules, each over the named operations: accumulator operations (R275), increments and
decrements (R284 to R291), read-modify-write of a memory byte with an optional register copy (R354, R365, R383 to R389), relative jumps
(R403), block iterations (R245 to R252, R433 to R443). -/

namespace Sys2Proof.Machine

namespace State

/-! ### Addresses -/

/-- `EA = (XY + sext_8(d)) & 0xFFFF` (R124). -/
def ea (s : State) (x : Idx) (d : Byte) : Word := s.getXY x + sext8 d

/-- The target of a relative jump (R124): relative to the address after its two bytes. -/
def relTarget (s : State) (e : Byte) : Word := s.pc + 2 + sext8 e

/-! ### Loads and stores -/

/-- Store a byte and end the instruction. -/
def storeThen (s : State) (a : Word) (v : Byte) (len n : Nat) : Result :=
  andThen (s.write a v) fun t => .next (t.done len n)

/-- Store a word and end the instruction. -/
def store16Then (s : State) (a v : Word) (len n : Nat) : Result :=
  andThen (s.write16 a v) fun t => .next (t.done len n)

/-- A register named by a source code of `LD XYH,s` (R179). -/
def getIdxSrc (s : State) (x : Idx) : IdxSrc → Byte
  | .b => s.main.b | .c => s.main.c | .d => s.main.d | .e => s.main.e
  | .xh => s.getHalf x .hi | .xl => s.getHalf x .lo | .a => s.main.a

/-- A destination of `LD r,XYH` (R179). -/
def setPlain (s : State) (r : PlainReg) (v : Byte) : State :=
  match r with
  | .b => s.setR .b v
  | .c => s.setR .c v
  | .d => s.setR .d v
  | .e => s.setR .e v
  | .a => s.setR .a v

/-- The operand of `ADD XY,pp` (R127, R333). -/
def getIdxPair (s : State) (x : Idx) : IdxPair → Word
  | .bc => s.bc | .de => s.de | .xy => s.getXY x | .sp => s.sp

/-! ### Accumulator operations and read-modify-write -/

/-- `A, F <- op(A, v)` (R275). -/
def aluThen (s : State) (op : AluOp) (v : Byte) (len n : Nat) : Result :=
  let o := op.run s.main.a v s.main.f
  .next (((s.setA o.res).setF o.flags).done len n)

/-- `r8[r], F <- g(r8[r], F)`. -/
def modifyR (s : State) (r : Reg8) (g : Byte → Byte → Out8) (len n : Nat) : Result :=
  let o := g (s.getR r) s.main.f
  .next (((s.setR r o.res).setF o.flags).done len n)

/-- `A, F <- g(A, F)`. -/
def modifyA (s : State) (g : Byte → Byte → Out8) (len n : Nat) : Result :=
  let o := g s.main.a s.main.f
  .next (((s.setA o.res).setF o.flags).done len n)

/-- The same on a half of an index register. -/
def modifyHalf (s : State) (x : Idx) (h : Half) (g : Byte → Byte → Out8) (len n : Nat) : Result :=
  let o := g (s.getHalf x h) s.main.f
  .next (((s.setHalf x h o.res).setF o.flags).done len n)

/-- `MemWrite(a, 1, g(MemRead(a, 1)))` with its flags: the read precedes the write, and the flags are those of the computed value even
where the write is ignored (R285, R354). -/
def modifyMem (s : State) (a : Word) (g : Byte → Byte → Out8) (len n : Nat) : Result :=
  let o := g (s.read a) s.main.f
  andThen (s.write a o.res) fun t => .next ((t.setF o.flags).done len n)

/-- The same with the result copied to a register, whether or not the write is ignored (R365, R389). -/
def modifyMemCopy (s : State) (a : Word) (r : Reg8) (g : Byte → Byte → Out8) (len n : Nat) : Result :=
  let o := g (s.read a) s.main.f
  andThen (s.write a o.res) fun t => .next (((t.setR r o.res).setF o.flags).done len n)

/-! ### Jumps, calls, returns -/

/-- A relative jump taken when `c` holds (R404 to R407): 12 cycles taken, 7 not. -/
def jumpRelIf (s : State) (c : Bool) (e : Byte) : Result :=
  if c then .next (s.jump (s.relTarget e) 12) else .next (s.done 2 7)

/-- `Push16(next); pc <- target` (R411, R417), for an instruction of `len` bytes. -/
def call (s : State) (target : Word) (len n : Nat) : Result :=
  andThen (s.push16 (s.pc + BitVec.ofNat 16 len)) fun t => .next (t.jump target n)

/-! ### Block instructions -/

/-- The end of a repeating iteration (R246, R250, R434): PC unchanged and 21 cycles while it repeats, else the next instruction and 16. -/
def repeatIf (s : State) (again : Bool) : State := if again then s.jump s.pc 21 else s.done 2 16

/-- One iteration of `LDI` (`step` = 1) or `LDD` (`step` = -1), but for its end (R245, R247). -/
def blockMove (s : State) (step : Word) : Result :=
  let v := s.read s.hl
  andThen (s.write s.de v) fun t =>
    let u := ((t.setHl (t.hl + step)).setDe (t.de + step)).setBc (t.bc - 1)
    .next (u.setF (blockMoveFlags u.main.a v u.bc u.main.f))

/-- One iteration of `CPI` (`step` = 1) or `CPD` (`step` = -1), but for its end (R249, R251). -/
def blockSearch (s : State) (step : Word) : State :=
  let v := s.read s.hl
  let u := (s.setHl (s.hl + step)).setBc (s.bc - 1)
  u.setF (blockSearchFlags u.main.a v u.bc u.main.f)

/-- One iteration of `INI` (`step` = 1) or `IND` (`step` = -1), but for its end (R433, R435): `k` is the byte plus C stepped the same
way. -/
def blockIn (s : State) (step : Word) : Result :=
  let q := s.portRead s.main.c
  let v := q.1
  andThen (q.2.write q.2.hl v) fun t =>
    let u := (t.setHl (t.hl + step)).setR .b (t.main.b - 1)
    .next (u.setF (ioFlags v (v.toNat + (u.main.c + loByte step).toNat) u.main.b))

/-- One iteration of `OUTI` (`step` = 1) or `OUTD` (`step` = -1), but for its end (R440, R442): B is decremented before the port write, and
`k` is the byte plus the new L. -/
def blockOut (s : State) (step : Word) : State :=
  let v := s.read s.hl
  let t := s.setR .b (s.main.b - 1)
  let u := t.portWrite t.main.c v
  let w := u.setHl (u.hl + step)
  w.setF (ioFlags v (v.toNat + w.main.l.toNat) w.main.b)

end State

end Sys2Proof.Machine
end

