-- ==== Sys2Proof/Machine/Alu16.lean ====
section
/-! DEFINITION. The meanings of the 16-bit arithmetic (spec/45_alu16.md, R330 to R338): one definition per row of
spec/opcode_table.json, over the shared operations. -/

namespace Sys2Proof.Machine

/-- `ADD HL,ss` (R330). -/
def execAddHlSs (p : Pair) (s : State) : Result :=
  let o := add16 s.hl (s.getPair p) s.main.f
  .next (((s.setHl o.res).setF o.flags).done 1 11)

/-- `ADC HL,ss` (R331). -/
def execAdcHlSs (p : Pair) (s : State) : Result :=
  let o := adc16 s.hl (s.getPair p) (flagC s.main.f)
  .next (((s.setHl o.res).setF o.flags).done 2 15)

/-- `SBC HL,ss` (R332). -/
def execSbcHlSs (p : Pair) (s : State) : Result :=
  let o := sbc16 s.hl (s.getPair p) (flagC s.main.f)
  .next (((s.setHl o.res).setF o.flags).done 2 15)

/-- `ADD IX,pp` (R333). -/
def execAddIxPp (p : IdxPair) (s : State) : Result :=
  let o := add16 (s.getXY .ix) (s.getIdxPair .ix p) s.main.f
  .next (((s.setXY .ix o.res).setF o.flags).done 2 15)

/-- `ADD IY,pp` (R333). -/
def execAddIyPp (p : IdxPair) (s : State) : Result :=
  let o := add16 (s.getXY .iy) (s.getIdxPair .iy p) s.main.f
  .next (((s.setXY .iy o.res).setF o.flags).done 2 15)

/-- `INC ss` (R334). -/
def execIncSs (p : Pair) (s : State) : Result :=
  .next ((s.setPair p (s.getPair p + 1)).done 1 6)

/-- `DEC ss` (R336). -/
def execDecSs (p : Pair) (s : State) : Result :=
  .next ((s.setPair p (s.getPair p - 1)).done 1 6)

/-- `INC IX` (R335). -/
def execIncIx (s : State) : Result :=
  .next ((s.setXY .ix (s.getXY .ix + 1)).done 2 10)

/-- `INC IY` (R335). -/
def execIncIy (s : State) : Result :=
  .next ((s.setXY .iy (s.getXY .iy + 1)).done 2 10)

/-- `DEC IX` (R337). -/
def execDecIx (s : State) : Result :=
  .next ((s.setXY .ix (s.getXY .ix - 1)).done 2 10)

/-- `DEC IY` (R337). -/
def execDecIy (s : State) : Result :=
  .next ((s.setXY .iy (s.getXY .iy - 1)).done 2 10)

end Sys2Proof.Machine
end

