-- ==== Sys2Proof/Machine/Alu8.lean ====
section
/-! DEFINITION. The meanings of the 8-bit arithmetic and logic (spec/43_alu8.md, R270 to R291): one definition per row of
spec/opcode_table.json, over the shared operations. -/

namespace Sys2Proof.Machine

/-- `ADD A,r` (R276). -/
def execAddAR (r : Reg8) (s : State) : Result :=
  s.aluThen .add (s.getR r) 1 4

/-- `ADD A,(HL)` (R276). -/
def execAddAIndHl (s : State) : Result :=
  s.aluThen .add (s.read s.hl) 1 7

/-- `ADD A,n` (R276). -/
def execAddAN (n : Byte) (s : State) : Result :=
  s.aluThen .add n 2 7

/-- `ADD A,(IX+d)` (R276). -/
def execAddAIndIx (d : Byte) (s : State) : Result :=
  s.aluThen .add (s.read (s.ea .ix d)) 3 19

/-- `ADD A,(IY+d)` (R276). -/
def execAddAIndIy (d : Byte) (s : State) : Result :=
  s.aluThen .add (s.read (s.ea .iy d)) 3 19

/-- `ADD A,IXH/IXL` (R276). -/
def execAddAIxHalf (h : Half) (s : State) : Result :=
  s.aluThen .add (s.getHalf .ix h) 2 8

/-- `ADD A,IYH/IYL` (R276). -/
def execAddAIyHalf (h : Half) (s : State) : Result :=
  s.aluThen .add (s.getHalf .iy h) 2 8

/-- `ADC A,r` (R277). -/
def execAdcAR (r : Reg8) (s : State) : Result :=
  s.aluThen .adc (s.getR r) 1 4

/-- `ADC A,(HL)` (R277). -/
def execAdcAIndHl (s : State) : Result :=
  s.aluThen .adc (s.read s.hl) 1 7

/-- `ADC A,n` (R277). -/
def execAdcAN (n : Byte) (s : State) : Result :=
  s.aluThen .adc n 2 7

/-- `ADC A,(IX+d)` (R277). -/
def execAdcAIndIx (d : Byte) (s : State) : Result :=
  s.aluThen .adc (s.read (s.ea .ix d)) 3 19

/-- `ADC A,(IY+d)` (R277). -/
def execAdcAIndIy (d : Byte) (s : State) : Result :=
  s.aluThen .adc (s.read (s.ea .iy d)) 3 19

/-- `ADC A,IXH/IXL` (R277). -/
def execAdcAIxHalf (h : Half) (s : State) : Result :=
  s.aluThen .adc (s.getHalf .ix h) 2 8

/-- `ADC A,IYH/IYL` (R277). -/
def execAdcAIyHalf (h : Half) (s : State) : Result :=
  s.aluThen .adc (s.getHalf .iy h) 2 8

/-- `SUB r` (R278). -/
def execSubR (r : Reg8) (s : State) : Result :=
  s.aluThen .sub (s.getR r) 1 4

/-- `SUB (HL)` (R278). -/
def execSubIndHl (s : State) : Result :=
  s.aluThen .sub (s.read s.hl) 1 7

/-- `SUB n` (R278). -/
def execSubN (n : Byte) (s : State) : Result :=
  s.aluThen .sub n 2 7

/-- `SUB (IX+d)` (R278). -/
def execSubIndIx (d : Byte) (s : State) : Result :=
  s.aluThen .sub (s.read (s.ea .ix d)) 3 19

/-- `SUB (IY+d)` (R278). -/
def execSubIndIy (d : Byte) (s : State) : Result :=
  s.aluThen .sub (s.read (s.ea .iy d)) 3 19

/-- `SUB IXH/IXL` (R278). -/
def execSubIxHalf (h : Half) (s : State) : Result :=
  s.aluThen .sub (s.getHalf .ix h) 2 8

/-- `SUB IYH/IYL` (R278). -/
def execSubIyHalf (h : Half) (s : State) : Result :=
  s.aluThen .sub (s.getHalf .iy h) 2 8

/-- `SBC A,r` (R279). -/
def execSbcAR (r : Reg8) (s : State) : Result :=
  s.aluThen .sbc (s.getR r) 1 4

/-- `SBC A,(HL)` (R279). -/
def execSbcAIndHl (s : State) : Result :=
  s.aluThen .sbc (s.read s.hl) 1 7

/-- `SBC A,n` (R279). -/
def execSbcAN (n : Byte) (s : State) : Result :=
  s.aluThen .sbc n 2 7

/-- `SBC A,(IX+d)` (R279). -/
def execSbcAIndIx (d : Byte) (s : State) : Result :=
  s.aluThen .sbc (s.read (s.ea .ix d)) 3 19

/-- `SBC A,(IY+d)` (R279). -/
def execSbcAIndIy (d : Byte) (s : State) : Result :=
  s.aluThen .sbc (s.read (s.ea .iy d)) 3 19

/-- `SBC A,IXH/IXL` (R279). -/
def execSbcAIxHalf (h : Half) (s : State) : Result :=
  s.aluThen .sbc (s.getHalf .ix h) 2 8

/-- `SBC A,IYH/IYL` (R279). -/
def execSbcAIyHalf (h : Half) (s : State) : Result :=
  s.aluThen .sbc (s.getHalf .iy h) 2 8

/-- `AND r` (R280). -/
def execAndR (r : Reg8) (s : State) : Result :=
  s.aluThen .and (s.getR r) 1 4

/-- `AND (HL)` (R280). -/
def execAndIndHl (s : State) : Result :=
  s.aluThen .and (s.read s.hl) 1 7

/-- `AND n` (R280). -/
def execAndN (n : Byte) (s : State) : Result :=
  s.aluThen .and n 2 7

/-- `AND (IX+d)` (R280). -/
def execAndIndIx (d : Byte) (s : State) : Result :=
  s.aluThen .and (s.read (s.ea .ix d)) 3 19

/-- `AND (IY+d)` (R280). -/
def execAndIndIy (d : Byte) (s : State) : Result :=
  s.aluThen .and (s.read (s.ea .iy d)) 3 19

/-- `AND IXH/IXL` (R280). -/
def execAndIxHalf (h : Half) (s : State) : Result :=
  s.aluThen .and (s.getHalf .ix h) 2 8

/-- `AND IYH/IYL` (R280). -/
def execAndIyHalf (h : Half) (s : State) : Result :=
  s.aluThen .and (s.getHalf .iy h) 2 8

/-- `XOR r` (R281). -/
def execXorR (r : Reg8) (s : State) : Result :=
  s.aluThen .xor (s.getR r) 1 4

/-- `XOR (HL)` (R281). -/
def execXorIndHl (s : State) : Result :=
  s.aluThen .xor (s.read s.hl) 1 7

/-- `XOR n` (R281). -/
def execXorN (n : Byte) (s : State) : Result :=
  s.aluThen .xor n 2 7

/-- `XOR (IX+d)` (R281). -/
def execXorIndIx (d : Byte) (s : State) : Result :=
  s.aluThen .xor (s.read (s.ea .ix d)) 3 19

/-- `XOR (IY+d)` (R281). -/
def execXorIndIy (d : Byte) (s : State) : Result :=
  s.aluThen .xor (s.read (s.ea .iy d)) 3 19

/-- `XOR IXH/IXL` (R281). -/
def execXorIxHalf (h : Half) (s : State) : Result :=
  s.aluThen .xor (s.getHalf .ix h) 2 8

/-- `XOR IYH/IYL` (R281). -/
def execXorIyHalf (h : Half) (s : State) : Result :=
  s.aluThen .xor (s.getHalf .iy h) 2 8

/-- `OR r` (R282). -/
def execOrR (r : Reg8) (s : State) : Result :=
  s.aluThen .or (s.getR r) 1 4

/-- `OR (HL)` (R282). -/
def execOrIndHl (s : State) : Result :=
  s.aluThen .or (s.read s.hl) 1 7

/-- `OR n` (R282). -/
def execOrN (n : Byte) (s : State) : Result :=
  s.aluThen .or n 2 7

/-- `OR (IX+d)` (R282). -/
def execOrIndIx (d : Byte) (s : State) : Result :=
  s.aluThen .or (s.read (s.ea .ix d)) 3 19

/-- `OR (IY+d)` (R282). -/
def execOrIndIy (d : Byte) (s : State) : Result :=
  s.aluThen .or (s.read (s.ea .iy d)) 3 19

/-- `OR IXH/IXL` (R282). -/
def execOrIxHalf (h : Half) (s : State) : Result :=
  s.aluThen .or (s.getHalf .ix h) 2 8

/-- `OR IYH/IYL` (R282). -/
def execOrIyHalf (h : Half) (s : State) : Result :=
  s.aluThen .or (s.getHalf .iy h) 2 8

/-- `CP r` (R283). -/
def execCpR (r : Reg8) (s : State) : Result :=
  s.aluThen .cp (s.getR r) 1 4

/-- `CP (HL)` (R283). -/
def execCpIndHl (s : State) : Result :=
  s.aluThen .cp (s.read s.hl) 1 7

/-- `CP n` (R283). -/
def execCpN (n : Byte) (s : State) : Result :=
  s.aluThen .cp n 2 7

/-- `CP (IX+d)` (R283). -/
def execCpIndIx (d : Byte) (s : State) : Result :=
  s.aluThen .cp (s.read (s.ea .ix d)) 3 19

/-- `CP (IY+d)` (R283). -/
def execCpIndIy (d : Byte) (s : State) : Result :=
  s.aluThen .cp (s.read (s.ea .iy d)) 3 19

/-- `CP IXH/IXL` (R283). -/
def execCpIxHalf (h : Half) (s : State) : Result :=
  s.aluThen .cp (s.getHalf .ix h) 2 8

/-- `CP IYH/IYL` (R283). -/
def execCpIyHalf (h : Half) (s : State) : Result :=
  s.aluThen .cp (s.getHalf .iy h) 2 8

/-- `INC r` (R284). -/
def execIncR (r : Reg8) (s : State) : Result :=
  s.modifyR r inc8 1 4

/-- `INC (HL)` (R285). -/
def execIncIndHl (s : State) : Result :=
  s.modifyMem s.hl inc8 1 11

/-- `INC (IX+d)` (R286). -/
def execIncIndIx (d : Byte) (s : State) : Result :=
  s.modifyMem (s.ea .ix d) inc8 3 23

/-- `INC (IY+d)` (R286). -/
def execIncIndIy (d : Byte) (s : State) : Result :=
  s.modifyMem (s.ea .iy d) inc8 3 23

/-- `INC IXH/IXL` (R290). -/
def execIncIxHalf (h : Half) (s : State) : Result :=
  s.modifyHalf .ix h inc8 2 8

/-- `INC IYH/IYL` (R290). -/
def execIncIyHalf (h : Half) (s : State) : Result :=
  s.modifyHalf .iy h inc8 2 8

/-- `DEC r` (R287). -/
def execDecR (r : Reg8) (s : State) : Result :=
  s.modifyR r dec8 1 4

/-- `DEC (HL)` (R288). -/
def execDecIndHl (s : State) : Result :=
  s.modifyMem s.hl dec8 1 11

/-- `DEC (IX+d)` (R289). -/
def execDecIndIx (d : Byte) (s : State) : Result :=
  s.modifyMem (s.ea .ix d) dec8 3 23

/-- `DEC (IY+d)` (R289). -/
def execDecIndIy (d : Byte) (s : State) : Result :=
  s.modifyMem (s.ea .iy d) dec8 3 23

/-- `DEC IXH/IXL` (R291). -/
def execDecIxHalf (h : Half) (s : State) : Result :=
  s.modifyHalf .ix h dec8 2 8

/-- `DEC IYH/IYL` (R291). -/
def execDecIyHalf (h : Half) (s : State) : Result :=
  s.modifyHalf .iy h dec8 2 8

end Sys2Proof.Machine
end

