-- ==== Sys2Proof/Machine/Bit.lean ====
section
/-! DEFINITION. The meanings of the bit test, set and reset (spec/47_bit.md, R380 to R390): one definition per row of
spec/opcode_table.json, over the shared operations. -/

namespace Sys2Proof.Machine

/-- `BIT b,r` (R380). -/
def execBitBR (b : BitVec 3) (r : Reg8) (s : State) : Result :=
  .next ((s.setF (bitFlags b (s.getR r) (s.getR r) s.main.f)).done 2 8)

/-- `BIT b,(HL)` (R381). Y and X come from a free value drawn afresh (U1, log entry 6). -/
def execBitBIndHl (b : BitVec 3) (s : State) : Result :=
  .next ({ s.setF (bitFlags b (s.read s.hl) (Config.freeByte s.freeDraws) s.main.f) with freeDraws := s.freeDraws + 1 }.done 2 12)

/-- `BIT b,(IX+d)` (R382). -/
def execBitBIndIx (b : BitVec 3) (d : Byte) (s : State) : Result :=
  .next ((s.setF (bitFlags b (s.read (s.ea .ix d)) (hiByte (s.ea .ix d)) s.main.f)).done 4 20)

/-- `BIT b,(IY+d)` (R382). -/
def execBitBIndIy (b : BitVec 3) (d : Byte) (s : State) : Result :=
  .next ((s.setF (bitFlags b (s.read (s.ea .iy d)) (hiByte (s.ea .iy d)) s.main.f)).done 4 20)

/-- `BIT b,(IX+d) (alias)` (R382). No register is read or written. -/
def execBitBIndIxAlias (b : BitVec 3) (d : Byte) (_y : Reg8) (s : State) : Result :=
  .next ((s.setF (bitFlags b (s.read (s.ea .ix d)) (hiByte (s.ea .ix d)) s.main.f)).done 4 20)

/-- `BIT b,(IY+d) (alias)` (R382). No register is read or written. -/
def execBitBIndIyAlias (b : BitVec 3) (d : Byte) (_y : Reg8) (s : State) : Result :=
  .next ((s.setF (bitFlags b (s.read (s.ea .iy d)) (hiByte (s.ea .iy d)) s.main.f)).done 4 20)

/-- `SET b,r` (R383). -/
def execSetBR (b : BitVec 3) (r : Reg8) (s : State) : Result :=
  s.modifyR r (setBit b) 2 8

/-- `SET b,(HL)` (R384). -/
def execSetBIndHl (b : BitVec 3) (s : State) : Result :=
  s.modifyMem s.hl (setBit b) 2 15

/-- `SET b,(IX+d)` (R385). -/
def execSetBIndIx (b : BitVec 3) (d : Byte) (s : State) : Result :=
  s.modifyMem (s.ea .ix d) (setBit b) 4 23

/-- `SET b,(IY+d)` (R385). -/
def execSetBIndIy (b : BitVec 3) (d : Byte) (s : State) : Result :=
  s.modifyMem (s.ea .iy d) (setBit b) 4 23

/-- `SET b,(IX+d),r` (R389). -/
def execSetBIndIxR (b : BitVec 3) (d : Byte) (r : Reg8) (s : State) : Result :=
  s.modifyMemCopy (s.ea .ix d) r (setBit b) 4 23

/-- `SET b,(IY+d),r` (R389). -/
def execSetBIndIyR (b : BitVec 3) (d : Byte) (r : Reg8) (s : State) : Result :=
  s.modifyMemCopy (s.ea .iy d) r (setBit b) 4 23

/-- `RES b,r` (R386). -/
def execResBR (b : BitVec 3) (r : Reg8) (s : State) : Result :=
  s.modifyR r (resBit b) 2 8

/-- `RES b,(HL)` (R387). -/
def execResBIndHl (b : BitVec 3) (s : State) : Result :=
  s.modifyMem s.hl (resBit b) 2 15

/-- `RES b,(IX+d)` (R388). -/
def execResBIndIx (b : BitVec 3) (d : Byte) (s : State) : Result :=
  s.modifyMem (s.ea .ix d) (resBit b) 4 23

/-- `RES b,(IY+d)` (R388). -/
def execResBIndIy (b : BitVec 3) (d : Byte) (s : State) : Result :=
  s.modifyMem (s.ea .iy d) (resBit b) 4 23

/-- `RES b,(IX+d),r` (R389). -/
def execResBIndIxR (b : BitVec 3) (d : Byte) (r : Reg8) (s : State) : Result :=
  s.modifyMemCopy (s.ea .ix d) r (resBit b) 4 23

/-- `RES b,(IY+d),r` (R389). -/
def execResBIndIyR (b : BitVec 3) (d : Byte) (r : Reg8) (s : State) : Result :=
  s.modifyMemCopy (s.ea .iy d) r (resBit b) 4 23

end Sys2Proof.Machine
end

