-- ==== Sys2Proof/Machine/Control.lean ====
section
/-! DEFINITION. The meanings of the general-purpose arithmetic and CPU control (spec/44_gp_arith_control.md, R310 to R321): one definition per row of
spec/opcode_table.json, over the shared operations. -/

namespace Sys2Proof.Machine

/-- `DAA` (R310). -/
def execDaa (s : State) : Result :=
  s.modifyA daa 1 4

/-- `CPL` (R311). -/
def execCpl (s : State) : Result :=
  s.modifyA cpl 1 4

/-- `NEG` (R312). -/
def execNeg (s : State) : Result :=
  s.modifyA (fun a _ => sub8 0 a false) 2 8

/-- `NEG (mirror)` (R312). -/
def execNegMirror (_y : BitVec 3) (s : State) : Result :=
  s.modifyA (fun a _ => sub8 0 a false) 2 8

/-- `CCF` (R313). -/
def execCcf (s : State) : Result :=
  .next ((s.setF (ccfFlags s.main.a s.main.f)).done 1 4)

/-- `SCF` (R314). -/
def execScf (s : State) : Result :=
  .next ((s.setF (scfFlags s.main.a s.main.f)).done 1 4)

/-- `NOP` (R315). -/
def execNop (s : State) : Result :=
  .next (s.done 1 4)

/-- `HALT` (R316). PC moves past the HALT; the halted steps are the step's (R470). -/
def execHalt (s : State) : Result :=
  .next ({ s with halted := true }.done 1 4)

/-- `DI` (R317). -/
def execDi (s : State) : Result :=
  .next ({ s with iff1 := false, iff2 := false }.done 1 4)

/-- `EI` (R318). -/
def execEi (s : State) : Result :=
  .next ({ s with iff1 := true, iff2 := true, postEi := true }.done 1 4)

/-- `IM 0` (R319). -/
def execIm0 (s : State) : Result :=
  .next ({ s with im := .im0 }.done 2 8)

/-- `IM 0 (mirror)` (R319). -/
def execIm0Mirror (_y : BitVec 3) (s : State) : Result :=
  .next ({ s with im := .im0 }.done 2 8)

/-- `IM 1` (R320). -/
def execIm1 (s : State) : Result :=
  .next ({ s with im := .im1 }.done 2 8)

/-- `IM 1 (mirror)` (R320). -/
def execIm1Mirror (s : State) : Result :=
  .next ({ s with im := .im1 }.done 2 8)

/-- `IM 2` (R321). -/
def execIm2 (s : State) : Result :=
  .next ({ s with im := .im2 }.done 2 8)

/-- `IM 2 (mirror)` (R321). -/
def execIm2Mirror (s : State) : Result :=
  .next ({ s with im := .im2 }.done 2 8)

end Sys2Proof.Machine
end

