-- ==== Sys2Proof/Machine/Exchange.lean ====
section
/-! DEFINITION. The meanings of the exchanges, block transfer and block search (spec/42_exchange_block.md, R240 to R253): one definition per row of
spec/opcode_table.json, over the shared operations. -/

namespace Sys2Proof.Machine

/-- `EX DE,HL` (R240). -/
def execExDeHl (s : State) : Result :=
  .next (((s.setDe s.hl).setHl s.de).done 1 4)

/-- `EX AF,AF'` (R241). -/
def execExAfAf (s : State) : Result :=
  .next ({ s with main := { s.main with a := s.shadow.a, f := s.shadow.f }, shadow := { s.shadow with a := s.main.a, f := s.main.f } }.done 1 4)

/-- `EXX` (R242). B, C, D, E, H, L change places with their shadows; A and F do not. -/
def execExx (s : State) : Result :=
  .next ({ s with main := { s.shadow with a := s.main.a, f := s.main.f }, shadow := { s.main with a := s.shadow.a, f := s.shadow.f } }.done 1 4)

/-- `EX (SP),HL` (R243). Both reads come before both writes. -/
def execExIndSpHl (s : State) : Result :=
  andThen (s.write16 s.sp s.hl) fun t => .next ((t.setHl (s.read16 s.sp)).done 1 19)

/-- `EX (SP),IX` (R244). Both reads come before both writes. -/
def execExIndSpIx (s : State) : Result :=
  andThen (s.write16 s.sp (s.getXY .ix)) fun t => .next ((t.setXY .ix (s.read16 s.sp)).done 2 23)

/-- `EX (SP),IY` (R244). Both reads come before both writes. -/
def execExIndSpIy (s : State) : Result :=
  andThen (s.write16 s.sp (s.getXY .iy)) fun t => .next ((t.setXY .iy (s.read16 s.sp)).done 2 23)

/-- `LDI` (R245). -/
def execLdi (s : State) : Result :=
  andThen (s.blockMove 1) fun t => .next (t.done 2 16)

/-- `LDIR` (R246). One iteration a step. -/
def execLdir (s : State) : Result :=
  andThen (s.blockMove 1) fun t => .next (t.repeatIf (t.bc != 0))

/-- `CPI` (R249). -/
def execCpi (s : State) : Result :=
  .next ((s.blockSearch 1).done 2 16)

/-- `CPIR` (R250). One iteration a step; Z is set exactly on a match. -/
def execCpir (s : State) : Result :=
  let t := s.blockSearch 1
  .next (t.repeatIf (t.bc != 0 && !flagZ t.main.f))

/-- `LDD` (R247). -/
def execLdd (s : State) : Result :=
  andThen (s.blockMove (-1)) fun t => .next (t.done 2 16)

/-- `LDDR` (R248). One iteration a step. -/
def execLddr (s : State) : Result :=
  andThen (s.blockMove (-1)) fun t => .next (t.repeatIf (t.bc != 0))

/-- `CPD` (R251). -/
def execCpd (s : State) : Result :=
  .next ((s.blockSearch (-1)).done 2 16)

/-- `CPDR` (R252). One iteration a step; Z is set exactly on a match. -/
def execCpdr (s : State) : Result :=
  let t := s.blockSearch (-1)
  .next (t.repeatIf (t.bc != 0 && !flagZ t.main.f))

end Sys2Proof.Machine
end

