-- ==== Sys2Proof/Machine/Io.lean ====
section
/-! DEFINITION. The meanings of the input and output (spec/49_io.md, R430 to R446): one definition per row of
spec/opcode_table.json, over the shared operations. -/

namespace Sys2Proof.Machine

/-- `IN A,(n)` (R430). No flag changes. -/
def execInAPortN (n : Byte) (s : State) : Result :=
  let q := s.portRead n
  .next ((q.2.setA q.1).done 2 11)

/-- `IN r,(C)` (R431). -/
def execInRPortC (r : Reg8) (s : State) : Result :=
  let q := s.portRead s.main.c
  .next (((q.2.setR r q.1).setF (inFlags q.1 s.main.f)).done 2 12)

/-- `IN (C)` (R432). Flags only; the port's read side effects happen. -/
def execInPortC (s : State) : Result :=
  let q := s.portRead s.main.c
  .next ((q.2.setF (inFlags q.1 s.main.f)).done 2 12)

/-- `OUT (n),A` (R437). -/
def execOutPortNA (n : Byte) (s : State) : Result :=
  .next ((s.portWrite n s.main.a).done 2 11)

/-- `OUT (C),r` (R438). -/
def execOutPortCR (r : Reg8) (s : State) : Result :=
  .next ((s.portWrite s.main.c (s.getR r)).done 2 12)

/-- `OUT (C),0` (R439). -/
def execOutPortCZero (s : State) : Result :=
  .next ((s.portWrite s.main.c 0x00).done 2 12)

/-- `INI` (R433). -/
def execIni (s : State) : Result :=
  andThen (s.blockIn 1) fun t => .next (t.done 2 16)

/-- `INIR` (R434). One iteration a step. -/
def execInir (s : State) : Result :=
  andThen (s.blockIn 1) fun t => .next (t.repeatIf (t.main.b != 0))

/-- `OUTI` (R440). -/
def execOuti (s : State) : Result :=
  .next ((s.blockOut 1).done 2 16)

/-- `OTIR` (R441). One iteration a step. -/
def execOtir (s : State) : Result :=
  let t := s.blockOut 1
  .next (t.repeatIf (t.main.b != 0))

/-- `IND` (R435). -/
def execInd (s : State) : Result :=
  andThen (s.blockIn (-1)) fun t => .next (t.done 2 16)

/-- `INDR` (R436). One iteration a step. -/
def execIndr (s : State) : Result :=
  andThen (s.blockIn (-1)) fun t => .next (t.repeatIf (t.main.b != 0))

/-- `OUTD` (R442). -/
def execOutd (s : State) : Result :=
  .next ((s.blockOut (-1)).done 2 16)

/-- `OTDR` (R443). One iteration a step. -/
def execOtdr (s : State) : Result :=
  let t := s.blockOut (-1)
  .next (t.repeatIf (t.main.b != 0))

end Sys2Proof.Machine
end

