-- ==== Sys2Proof/Machine/Jump.lean ====
section
/-! DEFINITION. The meanings of the jumps, calls, returns and restarts (spec/48_jump_call.md, R400 to R417): one definition per row of
spec/opcode_table.json, over the shared operations. -/

namespace Sys2Proof.Machine

/-- `JP nn` (R401). -/
def execJpNn (nn : Word) (s : State) : Result :=
  .next (s.jump nn 10)

/-- `JP cc,nn` (R402). -/
def execJpCcNn (cc : Cond) (nn : Word) (s : State) : Result :=
  if condHolds cc s.main.f then .next (s.jump nn 10) else .next (s.done 3 10)

/-- `JR e` (R403). -/
def execJrE (e : Byte) (s : State) : Result :=
  .next (s.jump (s.relTarget e) 12)

/-- `JR C,e` (R404). -/
def execJrCE (e : Byte) (s : State) : Result :=
  s.jumpRelIf (flagC s.main.f) e

/-- `JR NC,e` (R405). The jump is taken exactly when C is clear, whatever the other flags (C3 of spec/90_conflicts.md). -/
def execJrNcE (e : Byte) (s : State) : Result :=
  s.jumpRelIf (!flagC s.main.f) e

/-- `JR Z,e` (R406). -/
def execJrZE (e : Byte) (s : State) : Result :=
  s.jumpRelIf (flagZ s.main.f) e

/-- `JR NZ,e` (R407). -/
def execJrNzE (e : Byte) (s : State) : Result :=
  s.jumpRelIf (!flagZ s.main.f) e

/-- `DJNZ e` (R410). -/
def execDjnzE (e : Byte) (s : State) : Result :=
  let t := s.setR .b (s.main.b - 1)
  if t.main.b != 0 then .next (t.jump (t.relTarget e) 13) else .next (t.done 2 8)

/-- `JP (HL)` (R408). No memory is read. -/
def execJpHl (s : State) : Result :=
  .next (s.jump s.hl 4)

/-- `JP (IX)` (R409). No memory is read. -/
def execJpIx (s : State) : Result :=
  .next (s.jump (s.getXY .ix) 8)

/-- `JP (IY)` (R409). No memory is read. -/
def execJpIy (s : State) : Result :=
  .next (s.jump (s.getXY .iy) 8)

/-- `CALL nn` (R411). -/
def execCallNn (nn : Word) (s : State) : Result :=
  s.call nn 3 17

/-- `CALL cc,nn` (R412). -/
def execCallCcNn (cc : Cond) (nn : Word) (s : State) : Result :=
  if condHolds cc s.main.f then s.call nn 3 17 else .next (s.done 3 10)

/-- `RET` (R413). -/
def execRet (s : State) : Result :=
  .next (s.popped.jump s.popValue 10)

/-- `RET cc` (R414). -/
def execRetCc (cc : Cond) (s : State) : Result :=
  if condHolds cc s.main.f then .next (s.popped.jump s.popValue 11) else .next (s.done 1 5)

/-- `RETI` (R415). -/
def execReti (s : State) : Result :=
  .next s.returnFromInterrupt

/-- `RETN` (R416). -/
def execRetn (s : State) : Result :=
  .next s.returnFromInterrupt

/-- `RETN (mirror)` (R416). -/
def execRetnMirror (_y : BitVec 3) (s : State) : Result :=
  .next s.returnFromInterrupt

/-- `RST p` (R417). -/
def execRstP (t : BitVec 3) (s : State) : Result :=
  s.call (t.zeroExtend 16 * 8) 1 11

end Sys2Proof.Machine
end

