-- ==== Sys2Proof/Machine/Load16.lean ====
section
/-! DEFINITION. The meanings of the 16-bit loads, PUSH and POP (spec/41_load16.md, R200 to R214): one definition per row of
spec/opcode_table.json, over the shared operations. -/

namespace Sys2Proof.Machine

/-- `LD dd,nn` (R200). -/
def execLdDdNn (p : Pair) (nn : Word) (s : State) : Result :=
  .next ((s.setPair p nn).done 3 10)

/-- `LD IX,nn` (R201). -/
def execLdIxNn (nn : Word) (s : State) : Result :=
  .next ((s.setXY .ix nn).done 4 14)

/-- `LD IY,nn` (R201). -/
def execLdIyNn (nn : Word) (s : State) : Result :=
  .next ((s.setXY .iy nn).done 4 14)

/-- `LD HL,(nn)` (R202). -/
def execLdHlIndNn (nn : Word) (s : State) : Result :=
  .next ((s.setHl (s.read16 nn)).done 3 16)

/-- `LD dd,(nn)` (R203). -/
def execLdDdIndNn (p : Pair) (nn : Word) (s : State) : Result :=
  .next ((s.setPair p (s.read16 nn)).done 4 20)

/-- `LD IX,(nn)` (R204). -/
def execLdIxIndNn (nn : Word) (s : State) : Result :=
  .next ((s.setXY .ix (s.read16 nn)).done 4 20)

/-- `LD IY,(nn)` (R204). -/
def execLdIyIndNn (nn : Word) (s : State) : Result :=
  .next ((s.setXY .iy (s.read16 nn)).done 4 20)

/-- `LD (nn),HL` (R205). -/
def execLdIndNnHl (nn : Word) (s : State) : Result :=
  s.store16Then nn s.hl 3 16

/-- `LD (nn),dd` (R206). -/
def execLdIndNnDd (p : Pair) (nn : Word) (s : State) : Result :=
  s.store16Then nn (s.getPair p) 4 20

/-- `LD (nn),IX` (R207). -/
def execLdIndNnIx (nn : Word) (s : State) : Result :=
  s.store16Then nn (s.getXY .ix) 4 20

/-- `LD (nn),IY` (R207). -/
def execLdIndNnIy (nn : Word) (s : State) : Result :=
  s.store16Then nn (s.getXY .iy) 4 20

/-- `LD SP,HL` (R208). -/
def execLdSpHl (s : State) : Result :=
  .next ((s.setSp s.hl).done 1 6)

/-- `LD SP,IX` (R209). -/
def execLdSpIx (s : State) : Result :=
  .next ((s.setSp (s.getXY .ix)).done 2 10)

/-- `LD SP,IY` (R209). -/
def execLdSpIy (s : State) : Result :=
  .next ((s.setSp (s.getXY .iy)).done 2 10)

/-- `PUSH qq` (R210). -/
def execPushQq (p : QPair) (s : State) : Result :=
  andThen (s.push16 (s.getQPair p)) fun t => .next (t.done 1 11)

/-- `PUSH IX` (R211). -/
def execPushIx (s : State) : Result :=
  andThen (s.push16 (s.getXY .ix)) fun t => .next (t.done 2 15)

/-- `PUSH IY` (R211). -/
def execPushIy (s : State) : Result :=
  andThen (s.push16 (s.getXY .iy)) fun t => .next (t.done 2 15)

/-- `POP qq` (R212). -/
def execPopQq (p : QPair) (s : State) : Result :=
  .next ((s.popped.setQPair p s.popValue).done 1 10)

/-- `POP IX` (R213). -/
def execPopIx (s : State) : Result :=
  .next ((s.popped.setXY .ix s.popValue).done 2 14)

/-- `POP IY` (R213). -/
def execPopIy (s : State) : Result :=
  .next ((s.popped.setXY .iy s.popValue).done 2 14)

end Sys2Proof.Machine
end

