-- ==== Sys2Proof/Machine/Load8.lean ====
section
/-! DEFINITION. The meanings of the 8-bit loads (spec/40_load8.md, R160 to R180): one definition per row of
spec/opcode_table.json, over the shared operations. -/

namespace Sys2Proof.Machine

/-- `LD r,r'` (R161). -/
def execLdRR (r : Reg8) (r' : Reg8) (s : State) : Result :=
  .next ((s.setR r (s.getR r')).done 1 4)

/-- `LD r,n` (R162). -/
def execLdRN (r : Reg8) (n : Byte) (s : State) : Result :=
  .next ((s.setR r n).done 2 7)

/-- `LD r,(HL)` (R163). -/
def execLdRIndHl (r : Reg8) (s : State) : Result :=
  .next ((s.setR r (s.read s.hl)).done 1 7)

/-- `LD r,(IX+d)` (R164). The destination is the real register, never a half of the index register. -/
def execLdRIndIx (r : Reg8) (d : Byte) (s : State) : Result :=
  .next ((s.setR r (s.read (s.ea .ix d))).done 3 19)

/-- `LD r,(IY+d)` (R164). The destination is the real register, never a half of the index register. -/
def execLdRIndIy (r : Reg8) (d : Byte) (s : State) : Result :=
  .next ((s.setR r (s.read (s.ea .iy d))).done 3 19)

/-- `LD (HL),r` (R165). -/
def execLdIndHlR (r : Reg8) (s : State) : Result :=
  s.storeThen s.hl (s.getR r) 1 7

/-- `LD (IX+d),r` (R166). -/
def execLdIndIxR (d : Byte) (r : Reg8) (s : State) : Result :=
  s.storeThen (s.ea .ix d) (s.getR r) 3 19

/-- `LD (IY+d),r` (R166). -/
def execLdIndIyR (d : Byte) (r : Reg8) (s : State) : Result :=
  s.storeThen (s.ea .iy d) (s.getR r) 3 19

/-- `LD (HL),n` (R167). -/
def execLdIndHlN (n : Byte) (s : State) : Result :=
  s.storeThen s.hl n 2 10

/-- `LD (IX+d),n` (R168). -/
def execLdIndIxN (d : Byte) (n : Byte) (s : State) : Result :=
  s.storeThen (s.ea .ix d) n 4 19

/-- `LD (IY+d),n` (R168). -/
def execLdIndIyN (d : Byte) (n : Byte) (s : State) : Result :=
  s.storeThen (s.ea .iy d) n 4 19

/-- `LD A,(BC)` (R169). -/
def execLdAIndBc (s : State) : Result :=
  .next ((s.setA (s.read s.bc)).done 1 7)

/-- `LD A,(DE)` (R170). -/
def execLdAIndDe (s : State) : Result :=
  .next ((s.setA (s.read s.de)).done 1 7)

/-- `LD A,(nn)` (R171). -/
def execLdAIndNn (nn : Word) (s : State) : Result :=
  .next ((s.setA (s.read nn)).done 3 13)

/-- `LD (BC),A` (R172). -/
def execLdIndBcA (s : State) : Result :=
  s.storeThen s.bc s.main.a 1 7

/-- `LD (DE),A` (R173). -/
def execLdIndDeA (s : State) : Result :=
  s.storeThen s.de s.main.a 1 7

/-- `LD (nn),A` (R174). -/
def execLdIndNnA (nn : Word) (s : State) : Result :=
  s.storeThen nn s.main.a 3 13

/-- `LD A,I` (R175). -/
def execLdAI (s : State) : Result :=
  .next (((s.setA s.i).setF (ldAIRFlags s.i s.iff2 s.main.f)).done 2 9)

/-- `LD A,R` (R176). R is the value after this step's own increment, which the step makes before the meaning runs (R470). -/
def execLdAR (s : State) : Result :=
  .next (((s.setA s.r).setF (ldAIRFlags s.r s.iff2 s.main.f)).done 2 9)

/-- `LD I,A` (R177). -/
def execLdIA (s : State) : Result :=
  .next ({ s with i := s.main.a }.done 2 9)

/-- `LD R,A` (R178). Performed after the step's increment of R (R470). -/
def execLdRA (s : State) : Result :=
  .next ({ s with r := s.main.a }.done 2 9)

/-- `LD r,IXH/IXL` (R179). -/
def execLdRIxHalf (r : PlainReg) (h : Half) (s : State) : Result :=
  .next ((s.setPlain r (s.getHalf .ix h)).done 2 8)

/-- `LD r,IYH/IYL` (R179). -/
def execLdRIyHalf (r : PlainReg) (h : Half) (s : State) : Result :=
  .next ((s.setPlain r (s.getHalf .iy h)).done 2 8)

/-- `LD IXH/IXL,s` (R179). -/
def execLdIxHalfS (h : Half) (s' : IdxSrc) (s : State) : Result :=
  .next ((s.setHalf .ix h (s.getIdxSrc .ix s')).done 2 8)

/-- `LD IYH/IYL,s` (R179). -/
def execLdIyHalfS (h : Half) (s' : IdxSrc) (s : State) : Result :=
  .next ((s.setHalf .iy h (s.getIdxSrc .iy s')).done 2 8)

/-- `LD IXH/IXL,n` (R180). -/
def execLdIxHalfN (h : Half) (n : Byte) (s : State) : Result :=
  .next ((s.setHalf .ix h n).done 3 11)

/-- `LD IYH/IYL,n` (R180). -/
def execLdIyHalfN (h : Half) (n : Byte) (s : State) : Result :=
  .next ((s.setHalf .iy h n).done 3 11)

end Sys2Proof.Machine
end

