-- ==== Sys2Proof/Machine/Rotate.lean ====
section
/-! DEFINITION. The meanings of the rotates and shifts (spec/46_rotate_shift.md, R350 to R365): one definition per row of
spec/opcode_table.json, over the shared operations. -/

namespace Sys2Proof.Machine

/-- `RLCA` (R350). -/
def execRlca (s : State) : Result :=
  s.modifyA (RotOp.runAcc .rlc) 1 4

/-- `RLA` (R351). -/
def execRla (s : State) : Result :=
  s.modifyA (RotOp.runAcc .rl) 1 4

/-- `RRCA` (R352). -/
def execRrca (s : State) : Result :=
  s.modifyA (RotOp.runAcc .rrc) 1 4

/-- `RRA` (R353). -/
def execRra (s : State) : Result :=
  s.modifyA (RotOp.runAcc .rr) 1 4

/-- `RLC r` (R355). -/
def execRlcR (r : Reg8) (s : State) : Result :=
  s.modifyR r (RotOp.run .rlc) 2 8

/-- `RLC (HL)` (R355). -/
def execRlcIndHl (s : State) : Result :=
  s.modifyMem s.hl (RotOp.run .rlc) 2 15

/-- `RLC (IX+d)` (R355). -/
def execRlcIndIx (d : Byte) (s : State) : Result :=
  s.modifyMem (s.ea .ix d) (RotOp.run .rlc) 4 23

/-- `RLC (IY+d)` (R355). -/
def execRlcIndIy (d : Byte) (s : State) : Result :=
  s.modifyMem (s.ea .iy d) (RotOp.run .rlc) 4 23

/-- `RLC (IX+d),r` (R365). -/
def execRlcIndIxR (d : Byte) (r : Reg8) (s : State) : Result :=
  s.modifyMemCopy (s.ea .ix d) r (RotOp.run .rlc) 4 23

/-- `RLC (IY+d),r` (R365). -/
def execRlcIndIyR (d : Byte) (r : Reg8) (s : State) : Result :=
  s.modifyMemCopy (s.ea .iy d) r (RotOp.run .rlc) 4 23

/-- `RRC r` (R357). -/
def execRrcR (r : Reg8) (s : State) : Result :=
  s.modifyR r (RotOp.run .rrc) 2 8

/-- `RRC (HL)` (R357). -/
def execRrcIndHl (s : State) : Result :=
  s.modifyMem s.hl (RotOp.run .rrc) 2 15

/-- `RRC (IX+d)` (R357). -/
def execRrcIndIx (d : Byte) (s : State) : Result :=
  s.modifyMem (s.ea .ix d) (RotOp.run .rrc) 4 23

/-- `RRC (IY+d)` (R357). -/
def execRrcIndIy (d : Byte) (s : State) : Result :=
  s.modifyMem (s.ea .iy d) (RotOp.run .rrc) 4 23

/-- `RRC (IX+d),r` (R365). -/
def execRrcIndIxR (d : Byte) (r : Reg8) (s : State) : Result :=
  s.modifyMemCopy (s.ea .ix d) r (RotOp.run .rrc) 4 23

/-- `RRC (IY+d),r` (R365). -/
def execRrcIndIyR (d : Byte) (r : Reg8) (s : State) : Result :=
  s.modifyMemCopy (s.ea .iy d) r (RotOp.run .rrc) 4 23

/-- `RL r` (R356). -/
def execRlR (r : Reg8) (s : State) : Result :=
  s.modifyR r (RotOp.run .rl) 2 8

/-- `RL (HL)` (R356). -/
def execRlIndHl (s : State) : Result :=
  s.modifyMem s.hl (RotOp.run .rl) 2 15

/-- `RL (IX+d)` (R356). -/
def execRlIndIx (d : Byte) (s : State) : Result :=
  s.modifyMem (s.ea .ix d) (RotOp.run .rl) 4 23

/-- `RL (IY+d)` (R356). -/
def execRlIndIy (d : Byte) (s : State) : Result :=
  s.modifyMem (s.ea .iy d) (RotOp.run .rl) 4 23

/-- `RL (IX+d),r` (R365). -/
def execRlIndIxR (d : Byte) (r : Reg8) (s : State) : Result :=
  s.modifyMemCopy (s.ea .ix d) r (RotOp.run .rl) 4 23

/-- `RL (IY+d),r` (R365). -/
def execRlIndIyR (d : Byte) (r : Reg8) (s : State) : Result :=
  s.modifyMemCopy (s.ea .iy d) r (RotOp.run .rl) 4 23

/-- `RR r` (R358). -/
def execRrR (r : Reg8) (s : State) : Result :=
  s.modifyR r (RotOp.run .rr) 2 8

/-- `RR (HL)` (R358). -/
def execRrIndHl (s : State) : Result :=
  s.modifyMem s.hl (RotOp.run .rr) 2 15

/-- `RR (IX+d)` (R358). -/
def execRrIndIx (d : Byte) (s : State) : Result :=
  s.modifyMem (s.ea .ix d) (RotOp.run .rr) 4 23

/-- `RR (IY+d)` (R358). -/
def execRrIndIy (d : Byte) (s : State) : Result :=
  s.modifyMem (s.ea .iy d) (RotOp.run .rr) 4 23

/-- `RR (IX+d),r` (R365). -/
def execRrIndIxR (d : Byte) (r : Reg8) (s : State) : Result :=
  s.modifyMemCopy (s.ea .ix d) r (RotOp.run .rr) 4 23

/-- `RR (IY+d),r` (R365). -/
def execRrIndIyR (d : Byte) (r : Reg8) (s : State) : Result :=
  s.modifyMemCopy (s.ea .iy d) r (RotOp.run .rr) 4 23

/-- `SLA r` (R359). -/
def execSlaR (r : Reg8) (s : State) : Result :=
  s.modifyR r (RotOp.run .sla) 2 8

/-- `SLA (HL)` (R359). -/
def execSlaIndHl (s : State) : Result :=
  s.modifyMem s.hl (RotOp.run .sla) 2 15

/-- `SLA (IX+d)` (R359). -/
def execSlaIndIx (d : Byte) (s : State) : Result :=
  s.modifyMem (s.ea .ix d) (RotOp.run .sla) 4 23

/-- `SLA (IY+d)` (R359). -/
def execSlaIndIy (d : Byte) (s : State) : Result :=
  s.modifyMem (s.ea .iy d) (RotOp.run .sla) 4 23

/-- `SLA (IX+d),r` (R365). -/
def execSlaIndIxR (d : Byte) (r : Reg8) (s : State) : Result :=
  s.modifyMemCopy (s.ea .ix d) r (RotOp.run .sla) 4 23

/-- `SLA (IY+d),r` (R365). -/
def execSlaIndIyR (d : Byte) (r : Reg8) (s : State) : Result :=
  s.modifyMemCopy (s.ea .iy d) r (RotOp.run .sla) 4 23

/-- `SRA r` (R360). -/
def execSraR (r : Reg8) (s : State) : Result :=
  s.modifyR r (RotOp.run .sra) 2 8

/-- `SRA (HL)` (R360). -/
def execSraIndHl (s : State) : Result :=
  s.modifyMem s.hl (RotOp.run .sra) 2 15

/-- `SRA (IX+d)` (R360). -/
def execSraIndIx (d : Byte) (s : State) : Result :=
  s.modifyMem (s.ea .ix d) (RotOp.run .sra) 4 23

/-- `SRA (IY+d)` (R360). -/
def execSraIndIy (d : Byte) (s : State) : Result :=
  s.modifyMem (s.ea .iy d) (RotOp.run .sra) 4 23

/-- `SRA (IX+d),r` (R365). -/
def execSraIndIxR (d : Byte) (r : Reg8) (s : State) : Result :=
  s.modifyMemCopy (s.ea .ix d) r (RotOp.run .sra) 4 23

/-- `SRA (IY+d),r` (R365). -/
def execSraIndIyR (d : Byte) (r : Reg8) (s : State) : Result :=
  s.modifyMemCopy (s.ea .iy d) r (RotOp.run .sra) 4 23

/-- `SLL r` (R362). -/
def execSllR (r : Reg8) (s : State) : Result :=
  s.modifyR r (RotOp.run .sll) 2 8

/-- `SLL (HL)` (R362). -/
def execSllIndHl (s : State) : Result :=
  s.modifyMem s.hl (RotOp.run .sll) 2 15

/-- `SLL (IX+d)` (R362). -/
def execSllIndIx (d : Byte) (s : State) : Result :=
  s.modifyMem (s.ea .ix d) (RotOp.run .sll) 4 23

/-- `SLL (IY+d)` (R362). -/
def execSllIndIy (d : Byte) (s : State) : Result :=
  s.modifyMem (s.ea .iy d) (RotOp.run .sll) 4 23

/-- `SLL (IX+d),r` (R365). -/
def execSllIndIxR (d : Byte) (r : Reg8) (s : State) : Result :=
  s.modifyMemCopy (s.ea .ix d) r (RotOp.run .sll) 4 23

/-- `SLL (IY+d),r` (R365). -/
def execSllIndIyR (d : Byte) (r : Reg8) (s : State) : Result :=
  s.modifyMemCopy (s.ea .iy d) r (RotOp.run .sll) 4 23

/-- `SRL r` (R361). -/
def execSrlR (r : Reg8) (s : State) : Result :=
  s.modifyR r (RotOp.run .srl) 2 8

/-- `SRL (HL)` (R361). -/
def execSrlIndHl (s : State) : Result :=
  s.modifyMem s.hl (RotOp.run .srl) 2 15

/-- `SRL (IX+d)` (R361). -/
def execSrlIndIx (d : Byte) (s : State) : Result :=
  s.modifyMem (s.ea .ix d) (RotOp.run .srl) 4 23

/-- `SRL (IY+d)` (R361). -/
def execSrlIndIy (d : Byte) (s : State) : Result :=
  s.modifyMem (s.ea .iy d) (RotOp.run .srl) 4 23

/-- `SRL (IX+d),r` (R365). -/
def execSrlIndIxR (d : Byte) (r : Reg8) (s : State) : Result :=
  s.modifyMemCopy (s.ea .ix d) r (RotOp.run .srl) 4 23

/-- `SRL (IY+d),r` (R365). -/
def execSrlIndIyR (d : Byte) (r : Reg8) (s : State) : Result :=
  s.modifyMemCopy (s.ea .iy d) r (RotOp.run .srl) 4 23

/-- `RLD` (R363). -/
def execRld (s : State) : Result :=
  let t := s.read s.hl
  let a := s.main.a.extractLsb' 4 4 ++ t.extractLsb' 4 4
  andThen (s.write s.hl (t.extractLsb' 0 4 ++ s.main.a.extractLsb' 0 4)) fun u =>
    .next (((u.setA a).setF (digitFlags a u.main.f)).done 2 18)

/-- `RRD` (R364). -/
def execRrd (s : State) : Result :=
  let t := s.read s.hl
  let a := s.main.a.extractLsb' 4 4 ++ t.extractLsb' 0 4
  andThen (s.write s.hl (s.main.a.extractLsb' 0 4 ++ t.extractLsb' 4 4)) fun u =>
    .next (((u.setA a).setF (digitFlags a u.main.f)).done 2 18)

end Sys2Proof.Machine
end

