-- ==== Sys2Proof/Machine/Dispatch.lean ====
section
/-! DEFINITION. The one dispatch from instructions to their meanings: one arm per constructor of Instr. -/

namespace Sys2Proof.Machine

def exec (i : Instr) (s : State) : Host.Outcome State Fault Refusal :=
  match i with
  | .nop => Sys2Proof.Machine.execNop s
  | .exAfAf => Sys2Proof.Machine.execExAfAf s
  | .djnzE e => Sys2Proof.Machine.execDjnzE e s
  | .jrE e => Sys2Proof.Machine.execJrE e s
  | .jrNzE e => Sys2Proof.Machine.execJrNzE e s
  | .jrZE e => Sys2Proof.Machine.execJrZE e s
  | .jrNcE e => Sys2Proof.Machine.execJrNcE e s
  | .jrCE e => Sys2Proof.Machine.execJrCE e s
  | .ldDdNn p nn => Sys2Proof.Machine.execLdDdNn p nn s
  | .addHlSs p => Sys2Proof.Machine.execAddHlSs p s
  | .ldIndBcA => Sys2Proof.Machine.execLdIndBcA s
  | .ldAIndBc => Sys2Proof.Machine.execLdAIndBc s
  | .ldIndDeA => Sys2Proof.Machine.execLdIndDeA s
  | .ldAIndDe => Sys2Proof.Machine.execLdAIndDe s
  | .ldIndNnHl nn => Sys2Proof.Machine.execLdIndNnHl nn s
  | .ldHlIndNn nn => Sys2Proof.Machine.execLdHlIndNn nn s
  | .ldIndNnA nn => Sys2Proof.Machine.execLdIndNnA nn s
  | .ldAIndNn nn => Sys2Proof.Machine.execLdAIndNn nn s
  | .incSs p => Sys2Proof.Machine.execIncSs p s
  | .decSs p => Sys2Proof.Machine.execDecSs p s
  | .incR r => Sys2Proof.Machine.execIncR r s
  | .incIndHl => Sys2Proof.Machine.execIncIndHl s
  | .decR r => Sys2Proof.Machine.execDecR r s
  | .decIndHl => Sys2Proof.Machine.execDecIndHl s
  | .ldRN r n => Sys2Proof.Machine.execLdRN r n s
  | .ldIndHlN n => Sys2Proof.Machine.execLdIndHlN n s
  | .rlca => Sys2Proof.Machine.execRlca s
  | .rrca => Sys2Proof.Machine.execRrca s
  | .rla => Sys2Proof.Machine.execRla s
  | .rra => Sys2Proof.Machine.execRra s
  | .daa => Sys2Proof.Machine.execDaa s
  | .cpl => Sys2Proof.Machine.execCpl s
  | .scf => Sys2Proof.Machine.execScf s
  | .ccf => Sys2Proof.Machine.execCcf s
  | .ldRR r r' => Sys2Proof.Machine.execLdRR r r' s
  | .ldRIndHl r => Sys2Proof.Machine.execLdRIndHl r s
  | .ldIndHlR r => Sys2Proof.Machine.execLdIndHlR r s
  | .halt => Sys2Proof.Machine.execHalt s
  | .addAR r => Sys2Proof.Machine.execAddAR r s
  | .addAIndHl => Sys2Proof.Machine.execAddAIndHl s
  | .addAN n => Sys2Proof.Machine.execAddAN n s
  | .adcAR r => Sys2Proof.Machine.execAdcAR r s
  | .adcAIndHl => Sys2Proof.Machine.execAdcAIndHl s
  | .adcAN n => Sys2Proof.Machine.execAdcAN n s
  | .subR r => Sys2Proof.Machine.execSubR r s
  | .subIndHl => Sys2Proof.Machine.execSubIndHl s
  | .subN n => Sys2Proof.Machine.execSubN n s
  | .sbcAR r => Sys2Proof.Machine.execSbcAR r s
  | .sbcAIndHl => Sys2Proof.Machine.execSbcAIndHl s
  | .sbcAN n => Sys2Proof.Machine.execSbcAN n s
  | .andR r => Sys2Proof.Machine.execAndR r s
  | .andIndHl => Sys2Proof.Machine.execAndIndHl s
  | .andN n => Sys2Proof.Machine.execAndN n s
  | .xorR r => Sys2Proof.Machine.execXorR r s
  | .xorIndHl => Sys2Proof.Machine.execXorIndHl s
  | .xorN n => Sys2Proof.Machine.execXorN n s
  | .orR r => Sys2Proof.Machine.execOrR r s
  | .orIndHl => Sys2Proof.Machine.execOrIndHl s
  | .orN n => Sys2Proof.Machine.execOrN n s
  | .cpR r => Sys2Proof.Machine.execCpR r s
  | .cpIndHl => Sys2Proof.Machine.execCpIndHl s
  | .cpN n => Sys2Proof.Machine.execCpN n s
  | .retCc cc => Sys2Proof.Machine.execRetCc cc s
  | .popQq p => Sys2Proof.Machine.execPopQq p s
  | .ret => Sys2Proof.Machine.execRet s
  | .exx => Sys2Proof.Machine.execExx s
  | .jpHl => Sys2Proof.Machine.execJpHl s
  | .ldSpHl => Sys2Proof.Machine.execLdSpHl s
  | .jpCcNn cc nn => Sys2Proof.Machine.execJpCcNn cc nn s
  | .jpNn nn => Sys2Proof.Machine.execJpNn nn s
  | .outPortNA n => Sys2Proof.Machine.execOutPortNA n s
  | .inAPortN n => Sys2Proof.Machine.execInAPortN n s
  | .exIndSpHl => Sys2Proof.Machine.execExIndSpHl s
  | .exDeHl => Sys2Proof.Machine.execExDeHl s
  | .di => Sys2Proof.Machine.execDi s
  | .ei => Sys2Proof.Machine.execEi s
  | .callCcNn cc nn => Sys2Proof.Machine.execCallCcNn cc nn s
  | .pushQq p => Sys2Proof.Machine.execPushQq p s
  | .callNn nn => Sys2Proof.Machine.execCallNn nn s
  | .rstP t => Sys2Proof.Machine.execRstP t s
  | .rlcR r => Sys2Proof.Machine.execRlcR r s
  | .rlcIndHl => Sys2Proof.Machine.execRlcIndHl s
  | .rrcR r => Sys2Proof.Machine.execRrcR r s
  | .rrcIndHl => Sys2Proof.Machine.execRrcIndHl s
  | .rlR r => Sys2Proof.Machine.execRlR r s
  | .rlIndHl => Sys2Proof.Machine.execRlIndHl s
  | .rrR r => Sys2Proof.Machine.execRrR r s
  | .rrIndHl => Sys2Proof.Machine.execRrIndHl s
  | .slaR r => Sys2Proof.Machine.execSlaR r s
  | .slaIndHl => Sys2Proof.Machine.execSlaIndHl s
  | .sraR r => Sys2Proof.Machine.execSraR r s
  | .sraIndHl => Sys2Proof.Machine.execSraIndHl s
  | .sllR r => Sys2Proof.Machine.execSllR r s
  | .sllIndHl => Sys2Proof.Machine.execSllIndHl s
  | .srlR r => Sys2Proof.Machine.execSrlR r s
  | .srlIndHl => Sys2Proof.Machine.execSrlIndHl s
  | .bitBR b r => Sys2Proof.Machine.execBitBR b r s
  | .bitBIndHl b => Sys2Proof.Machine.execBitBIndHl b s
  | .resBR b r => Sys2Proof.Machine.execResBR b r s
  | .resBIndHl b => Sys2Proof.Machine.execResBIndHl b s
  | .setBR b r => Sys2Proof.Machine.execSetBR b r s
  | .setBIndHl b => Sys2Proof.Machine.execSetBIndHl b s
  | .addIxPp p => Sys2Proof.Machine.execAddIxPp p s
  | .ldIxNn nn => Sys2Proof.Machine.execLdIxNn nn s
  | .ldIndNnIx nn => Sys2Proof.Machine.execLdIndNnIx nn s
  | .incIx => Sys2Proof.Machine.execIncIx s
  | .ldIxIndNn nn => Sys2Proof.Machine.execLdIxIndNn nn s
  | .decIx => Sys2Proof.Machine.execDecIx s
  | .incIxHalf h => Sys2Proof.Machine.execIncIxHalf h s
  | .decIxHalf h => Sys2Proof.Machine.execDecIxHalf h s
  | .ldIxHalfN h n => Sys2Proof.Machine.execLdIxHalfN h n s
  | .incIndIx d => Sys2Proof.Machine.execIncIndIx d s
  | .decIndIx d => Sys2Proof.Machine.execDecIndIx d s
  | .ldIndIxN d n => Sys2Proof.Machine.execLdIndIxN d n s
  | .ldRIndIx r d => Sys2Proof.Machine.execLdRIndIx r d s
  | .ldIndIxR d r => Sys2Proof.Machine.execLdIndIxR d r s
  | .ldIxHalfS h s' => Sys2Proof.Machine.execLdIxHalfS h s' s
  | .ldRIxHalf r h => Sys2Proof.Machine.execLdRIxHalf r h s
  | .addAIndIx d => Sys2Proof.Machine.execAddAIndIx d s
  | .addAIxHalf h => Sys2Proof.Machine.execAddAIxHalf h s
  | .adcAIndIx d => Sys2Proof.Machine.execAdcAIndIx d s
  | .adcAIxHalf h => Sys2Proof.Machine.execAdcAIxHalf h s
  | .subIndIx d => Sys2Proof.Machine.execSubIndIx d s
  | .subIxHalf h => Sys2Proof.Machine.execSubIxHalf h s
  | .sbcAIndIx d => Sys2Proof.Machine.execSbcAIndIx d s
  | .sbcAIxHalf h => Sys2Proof.Machine.execSbcAIxHalf h s
  | .andIndIx d => Sys2Proof.Machine.execAndIndIx d s
  | .andIxHalf h => Sys2Proof.Machine.execAndIxHalf h s
  | .xorIndIx d => Sys2Proof.Machine.execXorIndIx d s
  | .xorIxHalf h => Sys2Proof.Machine.execXorIxHalf h s
  | .orIndIx d => Sys2Proof.Machine.execOrIndIx d s
  | .orIxHalf h => Sys2Proof.Machine.execOrIxHalf h s
  | .cpIndIx d => Sys2Proof.Machine.execCpIndIx d s
  | .cpIxHalf h => Sys2Proof.Machine.execCpIxHalf h s
  | .popIx => Sys2Proof.Machine.execPopIx s
  | .exIndSpIx => Sys2Proof.Machine.execExIndSpIx s
  | .pushIx => Sys2Proof.Machine.execPushIx s
  | .jpIx => Sys2Proof.Machine.execJpIx s
  | .ldSpIx => Sys2Proof.Machine.execLdSpIx s
  | .rlcIndIx d => Sys2Proof.Machine.execRlcIndIx d s
  | .rlcIndIxR d r => Sys2Proof.Machine.execRlcIndIxR d r s
  | .rrcIndIx d => Sys2Proof.Machine.execRrcIndIx d s
  | .rrcIndIxR d r => Sys2Proof.Machine.execRrcIndIxR d r s
  | .rlIndIx d => Sys2Proof.Machine.execRlIndIx d s
  | .rlIndIxR d r => Sys2Proof.Machine.execRlIndIxR d r s
  | .rrIndIx d => Sys2Proof.Machine.execRrIndIx d s
  | .rrIndIxR d r => Sys2Proof.Machine.execRrIndIxR d r s
  | .slaIndIx d => Sys2Proof.Machine.execSlaIndIx d s
  | .slaIndIxR d r => Sys2Proof.Machine.execSlaIndIxR d r s
  | .sraIndIx d => Sys2Proof.Machine.execSraIndIx d s
  | .sraIndIxR d r => Sys2Proof.Machine.execSraIndIxR d r s
  | .sllIndIx d => Sys2Proof.Machine.execSllIndIx d s
  | .sllIndIxR d r => Sys2Proof.Machine.execSllIndIxR d r s
  | .srlIndIx d => Sys2Proof.Machine.execSrlIndIx d s
  | .srlIndIxR d r => Sys2Proof.Machine.execSrlIndIxR d r s
  | .bitBIndIx b d => Sys2Proof.Machine.execBitBIndIx b d s
  | .bitBIndIxAlias b d y => Sys2Proof.Machine.execBitBIndIxAlias b d y s
  | .resBIndIx b d => Sys2Proof.Machine.execResBIndIx b d s
  | .resBIndIxR b d r => Sys2Proof.Machine.execResBIndIxR b d r s
  | .setBIndIx b d => Sys2Proof.Machine.execSetBIndIx b d s
  | .setBIndIxR b d r => Sys2Proof.Machine.execSetBIndIxR b d r s
  | .addIyPp p => Sys2Proof.Machine.execAddIyPp p s
  | .ldIyNn nn => Sys2Proof.Machine.execLdIyNn nn s
  | .ldIndNnIy nn => Sys2Proof.Machine.execLdIndNnIy nn s
  | .incIy => Sys2Proof.Machine.execIncIy s
  | .ldIyIndNn nn => Sys2Proof.Machine.execLdIyIndNn nn s
  | .decIy => Sys2Proof.Machine.execDecIy s
  | .incIyHalf h => Sys2Proof.Machine.execIncIyHalf h s
  | .decIyHalf h => Sys2Proof.Machine.execDecIyHalf h s
  | .ldIyHalfN h n => Sys2Proof.Machine.execLdIyHalfN h n s
  | .incIndIy d => Sys2Proof.Machine.execIncIndIy d s
  | .decIndIy d => Sys2Proof.Machine.execDecIndIy d s
  | .ldIndIyN d n => Sys2Proof.Machine.execLdIndIyN d n s
  | .ldRIndIy r d => Sys2Proof.Machine.execLdRIndIy r d s
  | .ldIndIyR d r => Sys2Proof.Machine.execLdIndIyR d r s
  | .ldIyHalfS h s' => Sys2Proof.Machine.execLdIyHalfS h s' s
  | .ldRIyHalf r h => Sys2Proof.Machine.execLdRIyHalf r h s
  | .addAIndIy d => Sys2Proof.Machine.execAddAIndIy d s
  | .addAIyHalf h => Sys2Proof.Machine.execAddAIyHalf h s
  | .adcAIndIy d => Sys2Proof.Machine.execAdcAIndIy d s
  | .adcAIyHalf h => Sys2Proof.Machine.execAdcAIyHalf h s
  | .subIndIy d => Sys2Proof.Machine.execSubIndIy d s
  | .subIyHalf h => Sys2Proof.Machine.execSubIyHalf h s
  | .sbcAIndIy d => Sys2Proof.Machine.execSbcAIndIy d s
  | .sbcAIyHalf h => Sys2Proof.Machine.execSbcAIyHalf h s
  | .andIndIy d => Sys2Proof.Machine.execAndIndIy d s
  | .andIyHalf h => Sys2Proof.Machine.execAndIyHalf h s
  | .xorIndIy d => Sys2Proof.Machine.execXorIndIy d s
  | .xorIyHalf h => Sys2Proof.Machine.execXorIyHalf h s
  | .orIndIy d => Sys2Proof.Machine.execOrIndIy d s
  | .orIyHalf h => Sys2Proof.Machine.execOrIyHalf h s
  | .cpIndIy d => Sys2Proof.Machine.execCpIndIy d s
  | .cpIyHalf h => Sys2Proof.Machine.execCpIyHalf h s
  | .popIy => Sys2Proof.Machine.execPopIy s
  | .exIndSpIy => Sys2Proof.Machine.execExIndSpIy s
  | .pushIy => Sys2Proof.Machine.execPushIy s
  | .jpIy => Sys2Proof.Machine.execJpIy s
  | .ldSpIy => Sys2Proof.Machine.execLdSpIy s
  | .rlcIndIy d => Sys2Proof.Machine.execRlcIndIy d s
  | .rlcIndIyR d r => Sys2Proof.Machine.execRlcIndIyR d r s
  | .rrcIndIy d => Sys2Proof.Machine.execRrcIndIy d s
  | .rrcIndIyR d r => Sys2Proof.Machine.execRrcIndIyR d r s
  | .rlIndIy d => Sys2Proof.Machine.execRlIndIy d s
  | .rlIndIyR d r => Sys2Proof.Machine.execRlIndIyR d r s
  | .rrIndIy d => Sys2Proof.Machine.execRrIndIy d s
  | .rrIndIyR d r => Sys2Proof.Machine.execRrIndIyR d r s
  | .slaIndIy d => Sys2Proof.Machine.execSlaIndIy d s
  | .slaIndIyR d r => Sys2Proof.Machine.execSlaIndIyR d r s
  | .sraIndIy d => Sys2Proof.Machine.execSraIndIy d s
  | .sraIndIyR d r => Sys2Proof.Machine.execSraIndIyR d r s
  | .sllIndIy d => Sys2Proof.Machine.execSllIndIy d s
  | .sllIndIyR d r => Sys2Proof.Machine.execSllIndIyR d r s
  | .srlIndIy d => Sys2Proof.Machine.execSrlIndIy d s
  | .srlIndIyR d r => Sys2Proof.Machine.execSrlIndIyR d r s
  | .bitBIndIy b d => Sys2Proof.Machine.execBitBIndIy b d s
  | .bitBIndIyAlias b d y => Sys2Proof.Machine.execBitBIndIyAlias b d y s
  | .resBIndIy b d => Sys2Proof.Machine.execResBIndIy b d s
  | .resBIndIyR b d r => Sys2Proof.Machine.execResBIndIyR b d r s
  | .setBIndIy b d => Sys2Proof.Machine.execSetBIndIy b d s
  | .setBIndIyR b d r => Sys2Proof.Machine.execSetBIndIyR b d r s
  | .inRPortC r => Sys2Proof.Machine.execInRPortC r s
  | .inPortC => Sys2Proof.Machine.execInPortC s
  | .outPortCR r => Sys2Proof.Machine.execOutPortCR r s
  | .outPortCZero => Sys2Proof.Machine.execOutPortCZero s
  | .sbcHlSs p => Sys2Proof.Machine.execSbcHlSs p s
  | .adcHlSs p => Sys2Proof.Machine.execAdcHlSs p s
  | .ldIndNnDd p nn => Sys2Proof.Machine.execLdIndNnDd p nn s
  | .ldDdIndNn p nn => Sys2Proof.Machine.execLdDdIndNn p nn s
  | .neg => Sys2Proof.Machine.execNeg s
  | .negMirror y => Sys2Proof.Machine.execNegMirror y s
  | .retn => Sys2Proof.Machine.execRetn s
  | .reti => Sys2Proof.Machine.execReti s
  | .retnMirror y => Sys2Proof.Machine.execRetnMirror y s
  | .im0 => Sys2Proof.Machine.execIm0 s
  | .im1 => Sys2Proof.Machine.execIm1 s
  | .im2 => Sys2Proof.Machine.execIm2 s
  | .im0Mirror y => Sys2Proof.Machine.execIm0Mirror y s
  | .im1Mirror => Sys2Proof.Machine.execIm1Mirror s
  | .im2Mirror => Sys2Proof.Machine.execIm2Mirror s
  | .ldIA => Sys2Proof.Machine.execLdIA s
  | .ldRA => Sys2Proof.Machine.execLdRA s
  | .ldAI => Sys2Proof.Machine.execLdAI s
  | .ldAR => Sys2Proof.Machine.execLdAR s
  | .rrd => Sys2Proof.Machine.execRrd s
  | .rld => Sys2Proof.Machine.execRld s
  | .ldi => Sys2Proof.Machine.execLdi s
  | .cpi => Sys2Proof.Machine.execCpi s
  | .ini => Sys2Proof.Machine.execIni s
  | .outi => Sys2Proof.Machine.execOuti s
  | .ldd => Sys2Proof.Machine.execLdd s
  | .cpd => Sys2Proof.Machine.execCpd s
  | .ind => Sys2Proof.Machine.execInd s
  | .outd => Sys2Proof.Machine.execOutd s
  | .ldir => Sys2Proof.Machine.execLdir s
  | .cpir => Sys2Proof.Machine.execCpir s
  | .inir => Sys2Proof.Machine.execInir s
  | .otir => Sys2Proof.Machine.execOtir s
  | .lddr => Sys2Proof.Machine.execLddr s
  | .cpdr => Sys2Proof.Machine.execCpdr s
  | .indr => Sys2Proof.Machine.execIndr s
  | .otdr => Sys2Proof.Machine.execOtdr s

end Sys2Proof.Machine
end

