-- ==== Sys2Proof/WellFormed.lean ====
section
/-! DEFINITION. Well-formed instructions: what the selector fields of a row of spec/opcode_table.json admit and the operand types do not
already say. Only the mirror selectors are bounded: y of the NEG, RETN and IM 0 mirrors (R134, R139). -/

namespace Sys2Proof

/-- The instruction's selector fields hold values its row admits (R142). -/
def Instr.wf : Instr → Bool
  | .negMirror y => y != 0
  | .retnMirror y => y != 0 && y != 1
  | .im0Mirror y => y == 1 || y == 4 || y == 5
  | _ => true

end Sys2Proof
end

