-- ==== Sys2Proof/Decode.lean ====
section
/-! DEFINITION. The decoder (R121, R132 to R137), total on any four bytes and rejecting an unset entry by its table and opcode byte
(R138), and after it the encoder, written from the encodings of spec/opcode_table.json (R142). -/

namespace Sys2Proof

/-! ### Field codes (R126 to R131) -/

def Reg8.code : Reg8 → BitVec 3
  | .b => 0 | .c => 1 | .d => 2 | .e => 3 | .h => 4 | .l => 5 | .a => 7

/-- Code 6 is no register (R126). -/
def Reg8.ofCode : Nat → Option Reg8
  | 0 => some .b | 1 => some .c | 2 => some .d | 3 => some .e
  | 4 => some .h | 5 => some .l | 7 => some .a | _ => none

def Pair.code : Pair → BitVec 2
  | .bc => 0 | .de => 1 | .hl => 2 | .sp => 3

def Pair.ofCode : Nat → Pair
  | 0 => .bc | 1 => .de | 2 => .hl | _ => .sp

def QPair.code : QPair → BitVec 2
  | .bc => 0 | .de => 1 | .hl => 2 | .af => 3

def QPair.ofCode : Nat → QPair
  | 0 => .bc | 1 => .de | 2 => .hl | _ => .af

def IdxPair.code : IdxPair → BitVec 2
  | .bc => 0 | .de => 1 | .xy => 2 | .sp => 3

def IdxPair.ofCode : Nat → IdxPair
  | 0 => .bc | 1 => .de | 2 => .xy | _ => .sp

def Cond.code : Cond → BitVec 3
  | .nz => 0 | .z => 1 | .nc => 2 | .c => 3 | .po => 4 | .pe => 5 | .p => 6 | .m => 7

def Cond.ofCode : Nat → Cond
  | 0 => .nz | 1 => .z | 2 => .nc | 3 => .c | 4 => .po | 5 => .pe | 6 => .p | _ => .m

/-- Bit 0 of a register code that is 4 or 5 (R131). -/
def Half.code : Half → BitVec 1
  | .hi => 0 | .lo => 1

/-- The half that register code 4 or 5 means under a DD or FD prefix (R131). -/
def Half.ofCode : Nat → Option Half
  | 4 => some .hi | 5 => some .lo | _ => none

def IdxSrc.code : IdxSrc → BitVec 3
  | .b => 0 | .c => 1 | .d => 2 | .e => 3 | .xh => 4 | .xl => 5 | .a => 7

def IdxSrc.ofCode : Nat → Option IdxSrc
  | 0 => some .b | 1 => some .c | 2 => some .d | 3 => some .e
  | 4 => some .xh | 5 => some .xl | 7 => some .a | _ => none

def PlainReg.code : PlainReg → BitVec 3
  | .b => 0 | .c => 1 | .d => 2 | .e => 3 | .a => 7

def PlainReg.ofCode : Nat → Option PlainReg
  | 0 => some .b | 1 => some .c | 2 => some .d | 3 => some .e | 7 => some .a | _ => none

/-! ### The fields of an opcode byte (R123) -/

/-- `x = op[7:6]`. -/
def opX (op : Byte) : Nat := op.toNat / 64

/-- `y = op[5:3]`; `p = y / 2`, `q = y % 2`. -/
def opY (op : Byte) : Nat := op.toNat / 8 % 8

/-- `z = op[2:0]`. -/
def opZ (op : Byte) : Nat := op.toNat % 8

/-! ### The tables -/

/-- The main table (R132): the opcode byte and the two bytes after it. The four prefix bytes have no entry. -/
def decodeMain (op b1 b2 : Byte) : Option Instr :=
  let y := opY op
  let z := opZ op
  let p := y / 2
  let nn := wordOf b2 b1
  match opX op, z with
  | 0, 0 =>
    match y with
    | 0 => some .nop
    | 1 => some .exAfAf
    | 2 => some (.djnzE b1)
    | 3 => some (.jrE b1)
    | 4 => some (.jrNzE b1)
    | 5 => some (.jrZE b1)
    | 6 => some (.jrNcE b1)
    | _ => some (.jrCE b1)
  | 0, 1 => if y % 2 = 0 then some (.ldDdNn (Pair.ofCode p) nn) else some (.addHlSs (Pair.ofCode p))
  | 0, 2 =>
    match y with
    | 0 => some .ldIndBcA
    | 1 => some .ldAIndBc
    | 2 => some .ldIndDeA
    | 3 => some .ldAIndDe
    | 4 => some (.ldIndNnHl nn)
    | 5 => some (.ldHlIndNn nn)
    | 6 => some (.ldIndNnA nn)
    | _ => some (.ldAIndNn nn)
  | 0, 3 => if y % 2 = 0 then some (.incSs (Pair.ofCode p)) else some (.decSs (Pair.ofCode p))
  | 0, 4 => some ((Reg8.ofCode y).elim .incIndHl .incR)
  | 0, 5 => some ((Reg8.ofCode y).elim .decIndHl .decR)
  | 0, 6 => some ((Reg8.ofCode y).elim (.ldIndHlN b1) fun r => .ldRN r b1)
  | 0, _ =>
    match y with
    | 0 => some .rlca
    | 1 => some .rrca
    | 2 => some .rla
    | 3 => some .rra
    | 4 => some .daa
    | 5 => some .cpl
    | 6 => some .scf
    | _ => some .ccf
  | 1, z =>
    match Reg8.ofCode y, Reg8.ofCode z with
    | some r, some r' => some (.ldRR r r')
    | some r, none => some (.ldRIndHl r)
    | none, some r => some (.ldIndHlR r)
    | none, none => some .halt
  | 2, z =>
    let s := Reg8.ofCode z
    match y with
    | 0 => some (s.elim .addAIndHl .addAR)
    | 1 => some (s.elim .adcAIndHl .adcAR)
    | 2 => some (s.elim .subIndHl .subR)
    | 3 => some (s.elim .sbcAIndHl .sbcAR)
    | 4 => some (s.elim .andIndHl .andR)
    | 5 => some (s.elim .xorIndHl .xorR)
    | 6 => some (s.elim .orIndHl .orR)
    | _ => some (s.elim .cpIndHl .cpR)
  | _, 0 => some (.retCc (Cond.ofCode y))
  | _, 1 =>
    match y with
    | 1 => some .ret
    | 3 => some .exx
    | 5 => some .jpHl
    | 7 => some .ldSpHl
    | _ => some (.popQq (QPair.ofCode p))
  | _, 2 => some (.jpCcNn (Cond.ofCode y) nn)
  | _, 3 =>
    match y with
    | 0 => some (.jpNn nn)
    | 1 => none
    | 2 => some (.outPortNA b1)
    | 3 => some (.inAPortN b1)
    | 4 => some .exIndSpHl
    | 5 => some .exDeHl
    | 6 => some .di
    | _ => some .ei
  | _, 4 => some (.callCcNn (Cond.ofCode y) nn)
  | _, 5 =>
    match y with
    | 1 => some (.callNn nn)
    | 3 => none
    | 5 => none
    | 7 => none
    | _ => some (.pushQq (QPair.ofCode p))
  | _, 6 =>
    match y with
    | 0 => some (.addAN b1)
    | 1 => some (.adcAN b1)
    | 2 => some (.subN b1)
    | 3 => some (.sbcAN b1)
    | 4 => some (.andN b1)
    | 5 => some (.xorN b1)
    | 6 => some (.orN b1)
    | _ => some (.cpN b1)
  | _, _ => some (.rstP (BitVec.ofNat 3 y))

/-- The CB table (R133). Every entry is populated. -/
def decodeCB (op : Byte) : Instr :=
  let y := opY op
  let s := Reg8.ofCode (opZ op)
  let b := BitVec.ofNat 3 y
  match opX op with
  | 0 =>
    match y with
    | 0 => s.elim .rlcIndHl .rlcR
    | 1 => s.elim .rrcIndHl .rrcR
    | 2 => s.elim .rlIndHl .rlR
    | 3 => s.elim .rrIndHl .rrR
    | 4 => s.elim .slaIndHl .slaR
    | 5 => s.elim .sraIndHl .sraR
    | 6 => s.elim .sllIndHl .sllR
    | _ => s.elim .srlIndHl .srlR
  | 1 => s.elim (.bitBIndHl b) (.bitBR b)
  | 2 => s.elim (.resBIndHl b) (.resBR b)
  | _ => s.elim (.setBIndHl b) (.setBR b)

/-- The ED table (R134): the opcode byte and the two bytes after it. -/
def decodeED (op b2 b3 : Byte) : Option Instr :=
  let y := opY op
  let z := opZ op
  let p := y / 2
  let nn := wordOf b3 b2
  match opX op, z with
  | 1, 0 => some ((Reg8.ofCode y).elim .inPortC .inRPortC)
  | 1, 1 => some ((Reg8.ofCode y).elim .outPortCZero .outPortCR)
  | 1, 2 => if y % 2 = 0 then some (.sbcHlSs (Pair.ofCode p)) else some (.adcHlSs (Pair.ofCode p))
  | 1, 3 => if y % 2 = 0 then some (.ldIndNnDd (Pair.ofCode p) nn) else some (.ldDdIndNn (Pair.ofCode p) nn)
  | 1, 4 => if y = 0 then some .neg else some (.negMirror (BitVec.ofNat 3 y))
  | 1, 5 => if y = 0 then some .retn else if y = 1 then some .reti else some (.retnMirror (BitVec.ofNat 3 y))
  | 1, 6 =>
    match y with
    | 0 => some .im0
    | 2 => some .im1
    | 3 => some .im2
    | 6 => some .im1Mirror
    | 7 => some .im2Mirror
    | _ => some (.im0Mirror (BitVec.ofNat 3 y))
  | 1, _ =>
    match y with
    | 0 => some .ldIA
    | 1 => some .ldRA
    | 2 => some .ldAI
    | 3 => some .ldAR
    | 4 => some .rrd
    | 5 => some .rld
    | _ => none
  | 2, 0 =>
    match y with
    | 4 => some .ldi | 5 => some .ldd | 6 => some .ldir | 7 => some .lddr | _ => none
  | 2, 1 =>
    match y with
    | 4 => some .cpi | 5 => some .cpd | 6 => some .cpir | 7 => some .cpdr | _ => none
  | 2, 2 =>
    match y with
    | 4 => some .ini | 5 => some .ind | 6 => some .inir | 7 => some .indr | _ => none
  | 2, 3 =>
    match y with
    | 4 => some .outi | 5 => some .outd | 6 => some .otir | 7 => some .otdr | _ => none
  | _, _ => none

/-- The DD table (R136): the opcode byte and the two bytes after it. -/
def decodeDD (op b2 b3 : Byte) : Option Instr :=
  let y := opY op
  let z := opZ op
  match opX op, z with
  | 0, 1 => if y % 2 = 1 then some (.addIxPp (IdxPair.ofCode (y / 2)))
            else if y = 4 then some (.ldIxNn (wordOf b3 b2)) else none
  | 0, 2 => if y = 4 then some (.ldIndNnIx (wordOf b3 b2)) else if y = 5 then some (.ldIxIndNn (wordOf b3 b2)) else none
  | 0, 3 => if y = 4 then some .incIx else if y = 5 then some .decIx else none
  | 0, 4 => if y = 6 then some (.incIndIx b2) else (Half.ofCode y).map Instr.incIxHalf
  | 0, 5 => if y = 6 then some (.decIndIx b2) else (Half.ofCode y).map Instr.decIxHalf
  | 0, 6 => if y = 6 then some (.ldIndIxN b2 b3) else (Half.ofCode y).map fun h => .ldIxHalfN h b2
  | 1, z =>
    match Reg8.ofCode y, Reg8.ofCode z with
    | none, none => none
    | some r, none => some (.ldRIndIx r b2)
    | none, some r => some (.ldIndIxR b2 r)
    | some _, some _ =>
      match Half.ofCode y, Half.ofCode z with
      | some h, _ => (IdxSrc.ofCode z).map (Instr.ldIxHalfS h)
      | none, some h => (PlainReg.ofCode y).map fun r => .ldRIxHalf r h
      | none, none => none
  | 2, z =>
    match y with
    | 0 => if z = 6 then some (.addAIndIx b2) else (Half.ofCode z).map Instr.addAIxHalf
    | 1 => if z = 6 then some (.adcAIndIx b2) else (Half.ofCode z).map Instr.adcAIxHalf
    | 2 => if z = 6 then some (.subIndIx b2) else (Half.ofCode z).map Instr.subIxHalf
    | 3 => if z = 6 then some (.sbcAIndIx b2) else (Half.ofCode z).map Instr.sbcAIxHalf
    | 4 => if z = 6 then some (.andIndIx b2) else (Half.ofCode z).map Instr.andIxHalf
    | 5 => if z = 6 then some (.xorIndIx b2) else (Half.ofCode z).map Instr.xorIxHalf
    | 6 => if z = 6 then some (.orIndIx b2) else (Half.ofCode z).map Instr.orIxHalf
    | _ => if z = 6 then some (.cpIndIx b2) else (Half.ofCode z).map Instr.cpIxHalf
  | 3, 1 => if y = 4 then some .popIx else if y = 5 then some .jpIx else if y = 7 then some .ldSpIx else none
  | 3, 3 => if y = 4 then some .exIndSpIx else none
  | 3, 5 => if y = 4 then some .pushIx else none
  | _, _ => none

/-- The FD table (R136): the opcode byte and the two bytes after it. -/
def decodeFD (op b2 b3 : Byte) : Option Instr :=
  let y := opY op
  let z := opZ op
  match opX op, z with
  | 0, 1 => if y % 2 = 1 then some (.addIyPp (IdxPair.ofCode (y / 2)))
            else if y = 4 then some (.ldIyNn (wordOf b3 b2)) else none
  | 0, 2 => if y = 4 then some (.ldIndNnIy (wordOf b3 b2)) else if y = 5 then some (.ldIyIndNn (wordOf b3 b2)) else none
  | 0, 3 => if y = 4 then some .incIy else if y = 5 then some .decIy else none
  | 0, 4 => if y = 6 then some (.incIndIy b2) else (Half.ofCode y).map Instr.incIyHalf
  | 0, 5 => if y = 6 then some (.decIndIy b2) else (Half.ofCode y).map Instr.decIyHalf
  | 0, 6 => if y = 6 then some (.ldIndIyN b2 b3) else (Half.ofCode y).map fun h => .ldIyHalfN h b2
  | 1, z =>
    match Reg8.ofCode y, Reg8.ofCode z with
    | none, none => none
    | some r, none => some (.ldRIndIy r b2)
    | none, some r => some (.ldIndIyR b2 r)
    | some _, some _ =>
      match Half.ofCode y, Half.ofCode z with
      | some h, _ => (IdxSrc.ofCode z).map (Instr.ldIyHalfS h)
      | none, some h => (PlainReg.ofCode y).map fun r => .ldRIyHalf r h
      | none, none => none
  | 2, z =>
    match y with
    | 0 => if z = 6 then some (.addAIndIy b2) else (Half.ofCode z).map Instr.addAIyHalf
    | 1 => if z = 6 then some (.adcAIndIy b2) else (Half.ofCode z).map Instr.adcAIyHalf
    | 2 => if z = 6 then some (.subIndIy b2) else (Half.ofCode z).map Instr.subIyHalf
    | 3 => if z = 6 then some (.sbcAIndIy b2) else (Half.ofCode z).map Instr.sbcAIyHalf
    | 4 => if z = 6 then some (.andIndIy b2) else (Half.ofCode z).map Instr.andIyHalf
    | 5 => if z = 6 then some (.xorIndIy b2) else (Half.ofCode z).map Instr.xorIyHalf
    | 6 => if z = 6 then some (.orIndIy b2) else (Half.ofCode z).map Instr.orIyHalf
    | _ => if z = 6 then some (.cpIndIy b2) else (Half.ofCode z).map Instr.cpIyHalf
  | 3, 1 => if y = 4 then some .popIy else if y = 5 then some .jpIy else if y = 7 then some .ldSpIy else none
  | 3, 3 => if y = 4 then some .exIndSpIy else none
  | 3, 5 => if y = 4 then some .pushIy else none
  | _, _ => none

/-- The DDCB table (R137): the displacement, which comes first, and the opcode byte. Every entry is populated. -/
def decodeDDCB (d op : Byte) : Instr :=
  let y := opY op
  let r := Reg8.ofCode (opZ op)
  let b := BitVec.ofNat 3 y
  match opX op, y, r with
  | 0, 0, none => .rlcIndIx d
  | 0, 0, some r => .rlcIndIxR d r
  | 0, 1, none => .rrcIndIx d
  | 0, 1, some r => .rrcIndIxR d r
  | 0, 2, none => .rlIndIx d
  | 0, 2, some r => .rlIndIxR d r
  | 0, 3, none => .rrIndIx d
  | 0, 3, some r => .rrIndIxR d r
  | 0, 4, none => .slaIndIx d
  | 0, 4, some r => .slaIndIxR d r
  | 0, 5, none => .sraIndIx d
  | 0, 5, some r => .sraIndIxR d r
  | 0, 6, none => .sllIndIx d
  | 0, 6, some r => .sllIndIxR d r
  | 0, _, none => .srlIndIx d
  | 0, _, some r => .srlIndIxR d r
  | 1, _, none => .bitBIndIx b d
  | 1, _, some r => .bitBIndIxAlias b d r
  | 2, _, none => .resBIndIx b d
  | 2, _, some r => .resBIndIxR b d r
  | _, _, none => .setBIndIx b d
  | _, _, some r => .setBIndIxR b d r

/-- The FDCB table (R137): the displacement, which comes first, and the opcode byte. Every entry is populated. -/
def decodeFDCB (d op : Byte) : Instr :=
  let y := opY op
  let r := Reg8.ofCode (opZ op)
  let b := BitVec.ofNat 3 y
  match opX op, y, r with
  | 0, 0, none => .rlcIndIy d
  | 0, 0, some r => .rlcIndIyR d r
  | 0, 1, none => .rrcIndIy d
  | 0, 1, some r => .rrcIndIyR d r
  | 0, 2, none => .rlIndIy d
  | 0, 2, some r => .rlIndIyR d r
  | 0, 3, none => .rrIndIy d
  | 0, 3, some r => .rrIndIyR d r
  | 0, 4, none => .slaIndIy d
  | 0, 4, some r => .slaIndIyR d r
  | 0, 5, none => .sraIndIy d
  | 0, 5, some r => .sraIndIyR d r
  | 0, 6, none => .sllIndIy d
  | 0, 6, some r => .sllIndIyR d r
  | 0, _, none => .srlIndIy d
  | 0, _, some r => .srlIndIyR d r
  | 1, _, none => .bitBIndIy b d
  | 1, _, some r => .bitBIndIyAlias b d r
  | 2, _, none => .resBIndIy b d
  | 2, _, some r => .resBIndIyR b d r
  | _, _, none => .setBIndIy b d
  | _, _, some r => .setBIndIyR b d r

/-! ### The decoder -/

/-- What the decoder answers: an instruction with the table it stands in, or the unset entry by its table and opcode byte (R138). -/
inductive Decoded where
  | instr (table : OpTable) (i : Instr)
  | unset (table : OpTable) (op : Byte)
deriving DecidableEq, Repr

/-- A lookup: the entry, or the unset entry by name. -/
def Decoded.ofEntry (table : OpTable) (op : Byte) : Option Instr → Decoded
  | some i => .instr table i
  | none => .unset table op

/-- The decoder of R121 on the four bytes at PC. An instruction shorter than four bytes does not depend on the bytes after it. -/
def decode (b0 b1 b2 b3 : Byte) : Decoded :=
  if b0 = 0xCB then .instr .cb (decodeCB b1)
  else if b0 = 0xED then .ofEntry .ed b1 (decodeED b1 b2 b3)
  else if b0 = 0xDD then
    if b1 = 0xCB then .instr .ddcb (decodeDDCB b2 b3) else .ofEntry .dd b1 (decodeDD b1 b2 b3)
  else if b0 = 0xFD then
    if b1 = 0xCB then .instr .fdcb (decodeFDCB b2 b3) else .ofEntry .fd b1 (decodeFD b1 b2 b3)
  else .ofEntry .main b0 (decodeMain b0 b1 b2)

/-! ### The encoder -/

/-- The bytes of an instruction in stream order (R122, R142), from the encodings of spec/opcode_table.json. -/
def encode : Instr → List Byte
  | .nop => [0b00000000]
  | .exAfAf => [0b00001000]
  | .djnzE e => [0b00010000, e]
  | .jrE e => [0b00011000, e]
  | .jrNzE e => [0b00100000, e]
  | .jrZE e => [0b00101000, e]
  | .jrNcE e => [0b00110000, e]
  | .jrCE e => [0b00111000, e]
  | .ldDdNn p nn => [0b00#2 ++ p.code ++ 0b0001#4, loByte nn, hiByte nn]
  | .addHlSs p => [0b00#2 ++ p.code ++ 0b1001#4]
  | .ldIndBcA => [0b00000010]
  | .ldAIndBc => [0b00001010]
  | .ldIndDeA => [0b00010010]
  | .ldAIndDe => [0b00011010]
  | .ldIndNnHl nn => [0b00100010, loByte nn, hiByte nn]
  | .ldHlIndNn nn => [0b00101010, loByte nn, hiByte nn]
  | .ldIndNnA nn => [0b00110010, loByte nn, hiByte nn]
  | .ldAIndNn nn => [0b00111010, loByte nn, hiByte nn]
  | .incSs p => [0b00#2 ++ p.code ++ 0b0011#4]
  | .decSs p => [0b00#2 ++ p.code ++ 0b1011#4]
  | .incR r => [0b00#2 ++ r.code ++ 0b100#3]
  | .incIndHl => [0b00110100]
  | .decR r => [0b00#2 ++ r.code ++ 0b101#3]
  | .decIndHl => [0b00110101]
  | .ldRN r n => [0b00#2 ++ r.code ++ 0b110#3, n]
  | .ldIndHlN n => [0b00110110, n]
  | .rlca => [0b00000111]
  | .rrca => [0b00001111]
  | .rla => [0b00010111]
  | .rra => [0b00011111]
  | .daa => [0b00100111]
  | .cpl => [0b00101111]
  | .scf => [0b00110111]
  | .ccf => [0b00111111]
  | .ldRR r r' => [0b01#2 ++ r.code ++ r'.code]
  | .ldRIndHl r => [0b01#2 ++ r.code ++ 0b110#3]
  | .ldIndHlR r => [0b01110#5 ++ r.code]
  | .halt => [0b01110110]
  | .addAR r => [0b10000#5 ++ r.code]
  | .addAIndHl => [0b10000110]
  | .addAN n => [0b11000110, n]
  | .adcAR r => [0b10001#5 ++ r.code]
  | .adcAIndHl => [0b10001110]
  | .adcAN n => [0b11001110, n]
  | .subR r => [0b10010#5 ++ r.code]
  | .subIndHl => [0b10010110]
  | .subN n => [0b11010110, n]
  | .sbcAR r => [0b10011#5 ++ r.code]
  | .sbcAIndHl => [0b10011110]
  | .sbcAN n => [0b11011110, n]
  | .andR r => [0b10100#5 ++ r.code]
  | .andIndHl => [0b10100110]
  | .andN n => [0b11100110, n]
  | .xorR r => [0b10101#5 ++ r.code]
  | .xorIndHl => [0b10101110]
  | .xorN n => [0b11101110, n]
  | .orR r => [0b10110#5 ++ r.code]
  | .orIndHl => [0b10110110]
  | .orN n => [0b11110110, n]
  | .cpR r => [0b10111#5 ++ r.code]
  | .cpIndHl => [0b10111110]
  | .cpN n => [0b11111110, n]
  | .retCc cc => [0b11#2 ++ cc.code ++ 0b000#3]
  | .popQq p => [0b11#2 ++ p.code ++ 0b0001#4]
  | .ret => [0b11001001]
  | .exx => [0b11011001]
  | .jpHl => [0b11101001]
  | .ldSpHl => [0b11111001]
  | .jpCcNn cc nn => [0b11#2 ++ cc.code ++ 0b010#3, loByte nn, hiByte nn]
  | .jpNn nn => [0b11000011, loByte nn, hiByte nn]
  | .outPortNA n => [0b11010011, n]
  | .inAPortN n => [0b11011011, n]
  | .exIndSpHl => [0b11100011]
  | .exDeHl => [0b11101011]
  | .di => [0b11110011]
  | .ei => [0b11111011]
  | .callCcNn cc nn => [0b11#2 ++ cc.code ++ 0b100#3, loByte nn, hiByte nn]
  | .pushQq p => [0b11#2 ++ p.code ++ 0b0101#4]
  | .callNn nn => [0b11001101, loByte nn, hiByte nn]
  | .rstP t => [0b11#2 ++ t ++ 0b111#3]
  | .rlcR r => [0xCB, 0b00000#5 ++ r.code]
  | .rlcIndHl => [0xCB, 0b00000110]
  | .rrcR r => [0xCB, 0b00001#5 ++ r.code]
  | .rrcIndHl => [0xCB, 0b00001110]
  | .rlR r => [0xCB, 0b00010#5 ++ r.code]
  | .rlIndHl => [0xCB, 0b00010110]
  | .rrR r => [0xCB, 0b00011#5 ++ r.code]
  | .rrIndHl => [0xCB, 0b00011110]
  | .slaR r => [0xCB, 0b00100#5 ++ r.code]
  | .slaIndHl => [0xCB, 0b00100110]
  | .sraR r => [0xCB, 0b00101#5 ++ r.code]
  | .sraIndHl => [0xCB, 0b00101110]
  | .sllR r => [0xCB, 0b00110#5 ++ r.code]
  | .sllIndHl => [0xCB, 0b00110110]
  | .srlR r => [0xCB, 0b00111#5 ++ r.code]
  | .srlIndHl => [0xCB, 0b00111110]
  | .bitBR b r => [0xCB, 0b01#2 ++ b ++ r.code]
  | .bitBIndHl b => [0xCB, 0b01#2 ++ b ++ 0b110#3]
  | .resBR b r => [0xCB, 0b10#2 ++ b ++ r.code]
  | .resBIndHl b => [0xCB, 0b10#2 ++ b ++ 0b110#3]
  | .setBR b r => [0xCB, 0b11#2 ++ b ++ r.code]
  | .setBIndHl b => [0xCB, 0b11#2 ++ b ++ 0b110#3]
  | .addIxPp p => [0xDD, 0b00#2 ++ p.code ++ 0b1001#4]
  | .ldIxNn nn => [0xDD, 0b00100001, loByte nn, hiByte nn]
  | .ldIndNnIx nn => [0xDD, 0b00100010, loByte nn, hiByte nn]
  | .incIx => [0xDD, 0b00100011]
  | .ldIxIndNn nn => [0xDD, 0b00101010, loByte nn, hiByte nn]
  | .decIx => [0xDD, 0b00101011]
  | .incIxHalf h => [0xDD, 0b0010#4 ++ h.code ++ 0b100#3]
  | .decIxHalf h => [0xDD, 0b0010#4 ++ h.code ++ 0b101#3]
  | .ldIxHalfN h n => [0xDD, 0b0010#4 ++ h.code ++ 0b110#3, n]
  | .incIndIx d => [0xDD, 0b00110100, d]
  | .decIndIx d => [0xDD, 0b00110101, d]
  | .ldIndIxN d n => [0xDD, 0b00110110, d, n]
  | .ldRIndIx r d => [0xDD, 0b01#2 ++ r.code ++ 0b110#3, d]
  | .ldIndIxR d r => [0xDD, 0b01110#5 ++ r.code, d]
  | .ldIxHalfS h s => [0xDD, 0b0110#4 ++ h.code ++ s.code]
  | .ldRIxHalf r h => [0xDD, 0b01#2 ++ r.code ++ 0b10#2 ++ h.code]
  | .addAIndIx d => [0xDD, 0b10000110, d]
  | .addAIxHalf h => [0xDD, 0b1000010#7 ++ h.code]
  | .adcAIndIx d => [0xDD, 0b10001110, d]
  | .adcAIxHalf h => [0xDD, 0b1000110#7 ++ h.code]
  | .subIndIx d => [0xDD, 0b10010110, d]
  | .subIxHalf h => [0xDD, 0b1001010#7 ++ h.code]
  | .sbcAIndIx d => [0xDD, 0b10011110, d]
  | .sbcAIxHalf h => [0xDD, 0b1001110#7 ++ h.code]
  | .andIndIx d => [0xDD, 0b10100110, d]
  | .andIxHalf h => [0xDD, 0b1010010#7 ++ h.code]
  | .xorIndIx d => [0xDD, 0b10101110, d]
  | .xorIxHalf h => [0xDD, 0b1010110#7 ++ h.code]
  | .orIndIx d => [0xDD, 0b10110110, d]
  | .orIxHalf h => [0xDD, 0b1011010#7 ++ h.code]
  | .cpIndIx d => [0xDD, 0b10111110, d]
  | .cpIxHalf h => [0xDD, 0b1011110#7 ++ h.code]
  | .popIx => [0xDD, 0b11100001]
  | .exIndSpIx => [0xDD, 0b11100011]
  | .pushIx => [0xDD, 0b11100101]
  | .jpIx => [0xDD, 0b11101001]
  | .ldSpIx => [0xDD, 0b11111001]
  | .rlcIndIx d => [0xDD, 0xCB, d, 0b00000110]
  | .rlcIndIxR d r => [0xDD, 0xCB, d, 0b00000#5 ++ r.code]
  | .rrcIndIx d => [0xDD, 0xCB, d, 0b00001110]
  | .rrcIndIxR d r => [0xDD, 0xCB, d, 0b00001#5 ++ r.code]
  | .rlIndIx d => [0xDD, 0xCB, d, 0b00010110]
  | .rlIndIxR d r => [0xDD, 0xCB, d, 0b00010#5 ++ r.code]
  | .rrIndIx d => [0xDD, 0xCB, d, 0b00011110]
  | .rrIndIxR d r => [0xDD, 0xCB, d, 0b00011#5 ++ r.code]
  | .slaIndIx d => [0xDD, 0xCB, d, 0b00100110]
  | .slaIndIxR d r => [0xDD, 0xCB, d, 0b00100#5 ++ r.code]
  | .sraIndIx d => [0xDD, 0xCB, d, 0b00101110]
  | .sraIndIxR d r => [0xDD, 0xCB, d, 0b00101#5 ++ r.code]
  | .sllIndIx d => [0xDD, 0xCB, d, 0b00110110]
  | .sllIndIxR d r => [0xDD, 0xCB, d, 0b00110#5 ++ r.code]
  | .srlIndIx d => [0xDD, 0xCB, d, 0b00111110]
  | .srlIndIxR d r => [0xDD, 0xCB, d, 0b00111#5 ++ r.code]
  | .bitBIndIx b d => [0xDD, 0xCB, d, 0b01#2 ++ b ++ 0b110#3]
  | .bitBIndIxAlias b d y => [0xDD, 0xCB, d, 0b01#2 ++ b ++ y.code]
  | .resBIndIx b d => [0xDD, 0xCB, d, 0b10#2 ++ b ++ 0b110#3]
  | .resBIndIxR b d r => [0xDD, 0xCB, d, 0b10#2 ++ b ++ r.code]
  | .setBIndIx b d => [0xDD, 0xCB, d, 0b11#2 ++ b ++ 0b110#3]
  | .setBIndIxR b d r => [0xDD, 0xCB, d, 0b11#2 ++ b ++ r.code]
  | .addIyPp p => [0xFD, 0b00#2 ++ p.code ++ 0b1001#4]
  | .ldIyNn nn => [0xFD, 0b00100001, loByte nn, hiByte nn]
  | .ldIndNnIy nn => [0xFD, 0b00100010, loByte nn, hiByte nn]
  | .incIy => [0xFD, 0b00100011]
  | .ldIyIndNn nn => [0xFD, 0b00101010, loByte nn, hiByte nn]
  | .decIy => [0xFD, 0b00101011]
  | .incIyHalf h => [0xFD, 0b0010#4 ++ h.code ++ 0b100#3]
  | .decIyHalf h => [0xFD, 0b0010#4 ++ h.code ++ 0b101#3]
  | .ldIyHalfN h n => [0xFD, 0b0010#4 ++ h.code ++ 0b110#3, n]
  | .incIndIy d => [0xFD, 0b00110100, d]
  | .decIndIy d => [0xFD, 0b00110101, d]
  | .ldIndIyN d n => [0xFD, 0b00110110, d, n]
  | .ldRIndIy r d => [0xFD, 0b01#2 ++ r.code ++ 0b110#3, d]
  | .ldIndIyR d r => [0xFD, 0b01110#5 ++ r.code, d]
  | .ldIyHalfS h s => [0xFD, 0b0110#4 ++ h.code ++ s.code]
  | .ldRIyHalf r h => [0xFD, 0b01#2 ++ r.code ++ 0b10#2 ++ h.code]
  | .addAIndIy d => [0xFD, 0b10000110, d]
  | .addAIyHalf h => [0xFD, 0b1000010#7 ++ h.code]
  | .adcAIndIy d => [0xFD, 0b10001110, d]
  | .adcAIyHalf h => [0xFD, 0b1000110#7 ++ h.code]
  | .subIndIy d => [0xFD, 0b10010110, d]
  | .subIyHalf h => [0xFD, 0b1001010#7 ++ h.code]
  | .sbcAIndIy d => [0xFD, 0b10011110, d]
  | .sbcAIyHalf h => [0xFD, 0b1001110#7 ++ h.code]
  | .andIndIy d => [0xFD, 0b10100110, d]
  | .andIyHalf h => [0xFD, 0b1010010#7 ++ h.code]
  | .xorIndIy d => [0xFD, 0b10101110, d]
  | .xorIyHalf h => [0xFD, 0b1010110#7 ++ h.code]
  | .orIndIy d => [0xFD, 0b10110110, d]
  | .orIyHalf h => [0xFD, 0b1011010#7 ++ h.code]
  | .cpIndIy d => [0xFD, 0b10111110, d]
  | .cpIyHalf h => [0xFD, 0b1011110#7 ++ h.code]
  | .popIy => [0xFD, 0b11100001]
  | .exIndSpIy => [0xFD, 0b11100011]
  | .pushIy => [0xFD, 0b11100101]
  | .jpIy => [0xFD, 0b11101001]
  | .ldSpIy => [0xFD, 0b11111001]
  | .rlcIndIy d => [0xFD, 0xCB, d, 0b00000110]
  | .rlcIndIyR d r => [0xFD, 0xCB, d, 0b00000#5 ++ r.code]
  | .rrcIndIy d => [0xFD, 0xCB, d, 0b00001110]
  | .rrcIndIyR d r => [0xFD, 0xCB, d, 0b00001#5 ++ r.code]
  | .rlIndIy d => [0xFD, 0xCB, d, 0b00010110]
  | .rlIndIyR d r => [0xFD, 0xCB, d, 0b00010#5 ++ r.code]
  | .rrIndIy d => [0xFD, 0xCB, d, 0b00011110]
  | .rrIndIyR d r => [0xFD, 0xCB, d, 0b00011#5 ++ r.code]
  | .slaIndIy d => [0xFD, 0xCB, d, 0b00100110]
  | .slaIndIyR d r => [0xFD, 0xCB, d, 0b00100#5 ++ r.code]
  | .sraIndIy d => [0xFD, 0xCB, d, 0b00101110]
  | .sraIndIyR d r => [0xFD, 0xCB, d, 0b00101#5 ++ r.code]
  | .sllIndIy d => [0xFD, 0xCB, d, 0b00110110]
  | .sllIndIyR d r => [0xFD, 0xCB, d, 0b00110#5 ++ r.code]
  | .srlIndIy d => [0xFD, 0xCB, d, 0b00111110]
  | .srlIndIyR d r => [0xFD, 0xCB, d, 0b00111#5 ++ r.code]
  | .bitBIndIy b d => [0xFD, 0xCB, d, 0b01#2 ++ b ++ 0b110#3]
  | .bitBIndIyAlias b d y => [0xFD, 0xCB, d, 0b01#2 ++ b ++ y.code]
  | .resBIndIy b d => [0xFD, 0xCB, d, 0b10#2 ++ b ++ 0b110#3]
  | .resBIndIyR b d r => [0xFD, 0xCB, d, 0b10#2 ++ b ++ r.code]
  | .setBIndIy b d => [0xFD, 0xCB, d, 0b11#2 ++ b ++ 0b110#3]
  | .setBIndIyR b d r => [0xFD, 0xCB, d, 0b11#2 ++ b ++ r.code]
  | .inRPortC r => [0xED, 0b01#2 ++ r.code ++ 0b000#3]
  | .inPortC => [0xED, 0b01110000]
  | .outPortCR r => [0xED, 0b01#2 ++ r.code ++ 0b001#3]
  | .outPortCZero => [0xED, 0b01110001]
  | .sbcHlSs p => [0xED, 0b01#2 ++ p.code ++ 0b0010#4]
  | .adcHlSs p => [0xED, 0b01#2 ++ p.code ++ 0b1010#4]
  | .ldIndNnDd p nn => [0xED, 0b01#2 ++ p.code ++ 0b0011#4, loByte nn, hiByte nn]
  | .ldDdIndNn p nn => [0xED, 0b01#2 ++ p.code ++ 0b1011#4, loByte nn, hiByte nn]
  | .neg => [0xED, 0b01000100]
  | .negMirror y => [0xED, 0b01#2 ++ y ++ 0b100#3]
  | .retn => [0xED, 0b01000101]
  | .reti => [0xED, 0b01001101]
  | .retnMirror y => [0xED, 0b01#2 ++ y ++ 0b101#3]
  | .im0 => [0xED, 0b01000110]
  | .im1 => [0xED, 0b01010110]
  | .im2 => [0xED, 0b01011110]
  | .im0Mirror y => [0xED, 0b01#2 ++ y ++ 0b110#3]
  | .im1Mirror => [0xED, 0b01110110]
  | .im2Mirror => [0xED, 0b01111110]
  | .ldIA => [0xED, 0b01000111]
  | .ldRA => [0xED, 0b01001111]
  | .ldAI => [0xED, 0b01010111]
  | .ldAR => [0xED, 0b01011111]
  | .rrd => [0xED, 0b01100111]
  | .rld => [0xED, 0b01101111]
  | .ldi => [0xED, 0b10100000]
  | .cpi => [0xED, 0b10100001]
  | .ini => [0xED, 0b10100010]
  | .outi => [0xED, 0b10100011]
  | .ldd => [0xED, 0b10101000]
  | .cpd => [0xED, 0b10101001]
  | .ind => [0xED, 0b10101010]
  | .outd => [0xED, 0b10101011]
  | .ldir => [0xED, 0b10110000]
  | .cpir => [0xED, 0b10110001]
  | .inir => [0xED, 0b10110010]
  | .otir => [0xED, 0b10110011]
  | .lddr => [0xED, 0b10111000]
  | .cpdr => [0xED, 0b10111001]
  | .indr => [0xED, 0b10111010]
  | .otdr => [0xED, 0b10111011]

/-- The instruction's length in bytes (R125). -/
def Instr.length (i : Instr) : Nat := (encode i).length

/-! ### The opcode table's numbering of an instruction's bits -/

/-- The `k` bytes of the number `w`, the most significant first: spec/opcode_table.json numbers an instruction's bits with byte 0 the most
significant (R142). -/
def bytesOfNumber (k w : Nat) : List Byte := (List.range k).map fun j => BitVec.ofNat 8 (w >>> (8 * (k - 1 - j)))

/-- The instruction four bytes decode to, if any. -/
def decodeInstr? (b0 b1 b2 b3 : Byte) : Option Instr :=
  match decode b0 b1 b2 b3 with
  | .instr _ i => some i
  | .unset _ _ => none

/-- The first four bytes of a list, the missing ones zero. -/
def fourBytes (bs : List Byte) : Byte × Byte × Byte × Byte :=
  (bs.getD 0 0, bs.getD 1 0, bs.getD 2 0, bs.getD 3 0)

/-- The instruction a list of bytes begins with, the missing bytes zero, if there is one that uses up all of the list. -/
def decodeWhole? (bs : List Byte) : Option Instr :=
  let q := fourBytes bs
  (decodeInstr? q.1 q.2.1 q.2.2.1 q.2.2.2).filter fun i => bs.length ≤ i.length

/-- The bytes of an instruction whose bits are `w`, in stream order: read as the table numbers them (byte 0 the most significant, R142),
or, where the bytes in that order are no instruction, with byte 0 the least significant (log entry 10). -/
def tableBytes (nbits w : Nat) : List Byte :=
  let bs := bytesOfNumber (nbits / 8) w
  if (decodeWhole? bs).isSome then bs else bs.reverse

/-- The instruction the decoder reads from an instruction whose bits are `w`, numbered as spec/opcode_table.json numbers them (log entry
10). -/
def decodeTableWord (nbits w : Nat) : Option Instr := decodeWhole? (tableBytes nbits w)

end Sys2Proof
end

