-- ==== Sys2Proof/Machine/Table.lean ====
section
/-! DEFINITION. The opcode tables as data (R48 of spec/10_state.md, R135, R142 of spec/30_encoding.md): what an entry holds beside its
behaviour, copied from spec/opcode_table.json. The behaviour of an entry is `exec` of the instruction it stands for (`OpTable.instrAt`). -/

namespace Sys2Proof

/-- What a row of spec/opcode_table.json says of an instruction beside its encoding (R142): the mnemonic template in the syntax of R143 (the
row's `source_mnemonic` where it has one), the base cycle cost, the cost when a branch is taken or a block instruction repeats, and the
undocumented flag (R139). -/
structure TableRow where
  template     : String
  cycles       : Nat
  cyclesTaken  : Option Nat
  undocumented : Bool
deriving DecidableEq, Repr

/-- The row of each instruction, in the table's order. -/
def Instr.row : Instr → TableRow
  | .nop => ⟨"NOP", 4, none, false⟩
  | .exAfAf => ⟨"EX AF,AF'", 4, none, false⟩
  | .djnzE _ => ⟨"DJNZ e", 8, some 13, false⟩
  | .jrE _ => ⟨"JR e", 12, none, false⟩
  | .jrNzE _ => ⟨"JR NZ,e", 7, some 12, false⟩
  | .jrZE _ => ⟨"JR Z,e", 7, some 12, false⟩
  | .jrNcE _ => ⟨"JR NC,e", 7, some 12, false⟩
  | .jrCE _ => ⟨"JR C,e", 7, some 12, false⟩
  | .ldDdNn _ _ => ⟨"LD dd,nn", 10, none, false⟩
  | .addHlSs _ => ⟨"ADD HL,ss", 11, none, false⟩
  | .ldIndBcA => ⟨"LD (BC),A", 7, none, false⟩
  | .ldAIndBc => ⟨"LD A,(BC)", 7, none, false⟩
  | .ldIndDeA => ⟨"LD (DE),A", 7, none, false⟩
  | .ldAIndDe => ⟨"LD A,(DE)", 7, none, false⟩
  | .ldIndNnHl _ => ⟨"LD (nn),HL", 16, none, false⟩
  | .ldHlIndNn _ => ⟨"LD HL,(nn)", 16, none, false⟩
  | .ldIndNnA _ => ⟨"LD (nn),A", 13, none, false⟩
  | .ldAIndNn _ => ⟨"LD A,(nn)", 13, none, false⟩
  | .incSs _ => ⟨"INC ss", 6, none, false⟩
  | .decSs _ => ⟨"DEC ss", 6, none, false⟩
  | .incR _ => ⟨"INC r", 4, none, false⟩
  | .incIndHl => ⟨"INC (HL)", 11, none, false⟩
  | .decR _ => ⟨"DEC r", 4, none, false⟩
  | .decIndHl => ⟨"DEC (HL)", 11, none, false⟩
  | .ldRN _ _ => ⟨"LD r,n", 7, none, false⟩
  | .ldIndHlN _ => ⟨"LD (HL),n", 10, none, false⟩
  | .rlca => ⟨"RLCA", 4, none, false⟩
  | .rrca => ⟨"RRCA", 4, none, false⟩
  | .rla => ⟨"RLA", 4, none, false⟩
  | .rra => ⟨"RRA", 4, none, false⟩
  | .daa => ⟨"DAA", 4, none, false⟩
  | .cpl => ⟨"CPL", 4, none, false⟩
  | .scf => ⟨"SCF", 4, none, false⟩
  | .ccf => ⟨"CCF", 4, none, false⟩
  | .ldRR _ _ => ⟨"LD r,r'", 4, none, false⟩
  | .ldRIndHl _ => ⟨"LD r,(HL)", 7, none, false⟩
  | .ldIndHlR _ => ⟨"LD (HL),r", 7, none, false⟩
  | .halt => ⟨"HALT", 4, none, false⟩
  | .addAR _ => ⟨"ADD A,r", 4, none, false⟩
  | .addAIndHl => ⟨"ADD A,(HL)", 7, none, false⟩
  | .addAN _ => ⟨"ADD A,n", 7, none, false⟩
  | .adcAR _ => ⟨"ADC A,r", 4, none, false⟩
  | .adcAIndHl => ⟨"ADC A,(HL)", 7, none, false⟩
  | .adcAN _ => ⟨"ADC A,n", 7, none, false⟩
  | .subR _ => ⟨"SUB r", 4, none, false⟩
  | .subIndHl => ⟨"SUB (HL)", 7, none, false⟩
  | .subN _ => ⟨"SUB n", 7, none, false⟩
  | .sbcAR _ => ⟨"SBC A,r", 4, none, false⟩
  | .sbcAIndHl => ⟨"SBC A,(HL)", 7, none, false⟩
  | .sbcAN _ => ⟨"SBC A,n", 7, none, false⟩
  | .andR _ => ⟨"AND r", 4, none, false⟩
  | .andIndHl => ⟨"AND (HL)", 7, none, false⟩
  | .andN _ => ⟨"AND n", 7, none, false⟩
  | .xorR _ => ⟨"XOR r", 4, none, false⟩
  | .xorIndHl => ⟨"XOR (HL)", 7, none, false⟩
  | .xorN _ => ⟨"XOR n", 7, none, false⟩
  | .orR _ => ⟨"OR r", 4, none, false⟩
  | .orIndHl => ⟨"OR (HL)", 7, none, false⟩
  | .orN _ => ⟨"OR n", 7, none, false⟩
  | .cpR _ => ⟨"CP r", 4, none, false⟩
  | .cpIndHl => ⟨"CP (HL)", 7, none, false⟩
  | .cpN _ => ⟨"CP n", 7, none, false⟩
  | .retCc _ => ⟨"RET cc", 5, some 11, false⟩
  | .popQq _ => ⟨"POP qq", 10, none, false⟩
  | .ret => ⟨"RET", 10, none, false⟩
  | .exx => ⟨"EXX", 4, none, false⟩
  | .jpHl => ⟨"JP (HL)", 4, none, false⟩
  | .ldSpHl => ⟨"LD SP,HL", 6, none, false⟩
  | .jpCcNn _ _ => ⟨"JP cc,nn", 10, none, false⟩
  | .jpNn _ => ⟨"JP nn", 10, none, false⟩
  | .outPortNA _ => ⟨"OUT (n),A", 11, none, false⟩
  | .inAPortN _ => ⟨"IN A,(n)", 11, none, false⟩
  | .exIndSpHl => ⟨"EX (SP),HL", 19, none, false⟩
  | .exDeHl => ⟨"EX DE,HL", 4, none, false⟩
  | .di => ⟨"DI", 4, none, false⟩
  | .ei => ⟨"EI", 4, none, false⟩
  | .callCcNn _ _ => ⟨"CALL cc,nn", 10, some 17, false⟩
  | .pushQq _ => ⟨"PUSH qq", 11, none, false⟩
  | .callNn _ => ⟨"CALL nn", 17, none, false⟩
  | .rstP _ => ⟨"RST p", 11, none, false⟩
  | .rlcR _ => ⟨"RLC r", 8, none, false⟩
  | .rlcIndHl => ⟨"RLC (HL)", 15, none, false⟩
  | .rrcR _ => ⟨"RRC r", 8, none, false⟩
  | .rrcIndHl => ⟨"RRC (HL)", 15, none, false⟩
  | .rlR _ => ⟨"RL r", 8, none, false⟩
  | .rlIndHl => ⟨"RL (HL)", 15, none, false⟩
  | .rrR _ => ⟨"RR r", 8, none, false⟩
  | .rrIndHl => ⟨"RR (HL)", 15, none, false⟩
  | .slaR _ => ⟨"SLA r", 8, none, false⟩
  | .slaIndHl => ⟨"SLA (HL)", 15, none, false⟩
  | .sraR _ => ⟨"SRA r", 8, none, false⟩
  | .sraIndHl => ⟨"SRA (HL)", 15, none, false⟩
  | .sllR _ => ⟨"SLL r", 8, none, true⟩
  | .sllIndHl => ⟨"SLL (HL)", 15, none, true⟩
  | .srlR _ => ⟨"SRL r", 8, none, false⟩
  | .srlIndHl => ⟨"SRL (HL)", 15, none, false⟩
  | .bitBR _ _ => ⟨"BIT b,r", 8, none, false⟩
  | .bitBIndHl _ => ⟨"BIT b,(HL)", 12, none, false⟩
  | .resBR _ _ => ⟨"RES b,r", 8, none, false⟩
  | .resBIndHl _ => ⟨"RES b,(HL)", 15, none, false⟩
  | .setBR _ _ => ⟨"SET b,r", 8, none, false⟩
  | .setBIndHl _ => ⟨"SET b,(HL)", 15, none, false⟩
  | .addIxPp _ => ⟨"ADD IX,pp", 15, none, false⟩
  | .ldIxNn _ => ⟨"LD IX,nn", 14, none, false⟩
  | .ldIndNnIx _ => ⟨"LD (nn),IX", 20, none, false⟩
  | .incIx => ⟨"INC IX", 10, none, false⟩
  | .ldIxIndNn _ => ⟨"LD IX,(nn)", 20, none, false⟩
  | .decIx => ⟨"DEC IX", 10, none, false⟩
  | .incIxHalf _ => ⟨"INC IXh", 8, none, true⟩
  | .decIxHalf _ => ⟨"DEC IXh", 8, none, true⟩
  | .ldIxHalfN _ _ => ⟨"LD IXh,n", 11, none, true⟩
  | .incIndIx _ => ⟨"INC (IX+d)", 23, none, false⟩
  | .decIndIx _ => ⟨"DEC (IX+d)", 23, none, false⟩
  | .ldIndIxN _ _ => ⟨"LD (IX+d),n", 19, none, false⟩
  | .ldRIndIx _ _ => ⟨"LD r,(IX+d)", 19, none, false⟩
  | .ldIndIxR _ _ => ⟨"LD (IX+d),r", 19, none, false⟩
  | .ldIxHalfS _ _ => ⟨"LD IXh,s", 8, none, true⟩
  | .ldRIxHalf _ _ => ⟨"LD r,IXh", 8, none, true⟩
  | .addAIndIx _ => ⟨"ADD A,(IX+d)", 19, none, false⟩
  | .addAIxHalf _ => ⟨"ADD A,IXh", 8, none, true⟩
  | .adcAIndIx _ => ⟨"ADC A,(IX+d)", 19, none, false⟩
  | .adcAIxHalf _ => ⟨"ADC A,IXh", 8, none, true⟩
  | .subIndIx _ => ⟨"SUB (IX+d)", 19, none, false⟩
  | .subIxHalf _ => ⟨"SUB IXh", 8, none, true⟩
  | .sbcAIndIx _ => ⟨"SBC A,(IX+d)", 19, none, false⟩
  | .sbcAIxHalf _ => ⟨"SBC A,IXh", 8, none, true⟩
  | .andIndIx _ => ⟨"AND (IX+d)", 19, none, false⟩
  | .andIxHalf _ => ⟨"AND IXh", 8, none, true⟩
  | .xorIndIx _ => ⟨"XOR (IX+d)", 19, none, false⟩
  | .xorIxHalf _ => ⟨"XOR IXh", 8, none, true⟩
  | .orIndIx _ => ⟨"OR (IX+d)", 19, none, false⟩
  | .orIxHalf _ => ⟨"OR IXh", 8, none, true⟩
  | .cpIndIx _ => ⟨"CP (IX+d)", 19, none, false⟩
  | .cpIxHalf _ => ⟨"CP IXh", 8, none, true⟩
  | .popIx => ⟨"POP IX", 14, none, false⟩
  | .exIndSpIx => ⟨"EX (SP),IX", 23, none, false⟩
  | .pushIx => ⟨"PUSH IX", 15, none, false⟩
  | .jpIx => ⟨"JP (IX)", 8, none, false⟩
  | .ldSpIx => ⟨"LD SP,IX", 10, none, false⟩
  | .rlcIndIx _ => ⟨"RLC (IX+d)", 23, none, false⟩
  | .rlcIndIxR _ _ => ⟨"RLC (IX+d),r", 23, none, true⟩
  | .rrcIndIx _ => ⟨"RRC (IX+d)", 23, none, false⟩
  | .rrcIndIxR _ _ => ⟨"RRC (IX+d),r", 23, none, true⟩
  | .rlIndIx _ => ⟨"RL (IX+d)", 23, none, false⟩
  | .rlIndIxR _ _ => ⟨"RL (IX+d),r", 23, none, true⟩
  | .rrIndIx _ => ⟨"RR (IX+d)", 23, none, false⟩
  | .rrIndIxR _ _ => ⟨"RR (IX+d),r", 23, none, true⟩
  | .slaIndIx _ => ⟨"SLA (IX+d)", 23, none, false⟩
  | .slaIndIxR _ _ => ⟨"SLA (IX+d),r", 23, none, true⟩
  | .sraIndIx _ => ⟨"SRA (IX+d)", 23, none, false⟩
  | .sraIndIxR _ _ => ⟨"SRA (IX+d),r", 23, none, true⟩
  | .sllIndIx _ => ⟨"SLL (IX+d)", 23, none, true⟩
  | .sllIndIxR _ _ => ⟨"SLL (IX+d),r", 23, none, true⟩
  | .srlIndIx _ => ⟨"SRL (IX+d)", 23, none, false⟩
  | .srlIndIxR _ _ => ⟨"SRL (IX+d),r", 23, none, true⟩
  | .bitBIndIx _ _ => ⟨"BIT b,(IX+d)", 20, none, false⟩
  | .bitBIndIxAlias _ _ _ => ⟨"BIT b,(IX+d) (alias)", 20, none, true⟩
  | .resBIndIx _ _ => ⟨"RES b,(IX+d)", 23, none, false⟩
  | .resBIndIxR _ _ _ => ⟨"RES b,(IX+d),r", 23, none, true⟩
  | .setBIndIx _ _ => ⟨"SET b,(IX+d)", 23, none, false⟩
  | .setBIndIxR _ _ _ => ⟨"SET b,(IX+d),r", 23, none, true⟩
  | .addIyPp _ => ⟨"ADD IY,pp", 15, none, false⟩
  | .ldIyNn _ => ⟨"LD IY,nn", 14, none, false⟩
  | .ldIndNnIy _ => ⟨"LD (nn),IY", 20, none, false⟩
  | .incIy => ⟨"INC IY", 10, none, false⟩
  | .ldIyIndNn _ => ⟨"LD IY,(nn)", 20, none, false⟩
  | .decIy => ⟨"DEC IY", 10, none, false⟩
  | .incIyHalf _ => ⟨"INC IYh", 8, none, true⟩
  | .decIyHalf _ => ⟨"DEC IYh", 8, none, true⟩
  | .ldIyHalfN _ _ => ⟨"LD IYh,n", 11, none, true⟩
  | .incIndIy _ => ⟨"INC (IY+d)", 23, none, false⟩
  | .decIndIy _ => ⟨"DEC (IY+d)", 23, none, false⟩
  | .ldIndIyN _ _ => ⟨"LD (IY+d),n", 19, none, false⟩
  | .ldRIndIy _ _ => ⟨"LD r,(IY+d)", 19, none, false⟩
  | .ldIndIyR _ _ => ⟨"LD (IY+d),r", 19, none, false⟩
  | .ldIyHalfS _ _ => ⟨"LD IYh,s", 8, none, true⟩
  | .ldRIyHalf _ _ => ⟨"LD r,IYh", 8, none, true⟩
  | .addAIndIy _ => ⟨"ADD A,(IY+d)", 19, none, false⟩
  | .addAIyHalf _ => ⟨"ADD A,IYh", 8, none, true⟩
  | .adcAIndIy _ => ⟨"ADC A,(IY+d)", 19, none, false⟩
  | .adcAIyHalf _ => ⟨"ADC A,IYh", 8, none, true⟩
  | .subIndIy _ => ⟨"SUB (IY+d)", 19, none, false⟩
  | .subIyHalf _ => ⟨"SUB IYh", 8, none, true⟩
  | .sbcAIndIy _ => ⟨"SBC A,(IY+d)", 19, none, false⟩
  | .sbcAIyHalf _ => ⟨"SBC A,IYh", 8, none, true⟩
  | .andIndIy _ => ⟨"AND (IY+d)", 19, none, false⟩
  | .andIyHalf _ => ⟨"AND IYh", 8, none, true⟩
  | .xorIndIy _ => ⟨"XOR (IY+d)", 19, none, false⟩
  | .xorIyHalf _ => ⟨"XOR IYh", 8, none, true⟩
  | .orIndIy _ => ⟨"OR (IY+d)", 19, none, false⟩
  | .orIyHalf _ => ⟨"OR IYh", 8, none, true⟩
  | .cpIndIy _ => ⟨"CP (IY+d)", 19, none, false⟩
  | .cpIyHalf _ => ⟨"CP IYh", 8, none, true⟩
  | .popIy => ⟨"POP IY", 14, none, false⟩
  | .exIndSpIy => ⟨"EX (SP),IY", 23, none, false⟩
  | .pushIy => ⟨"PUSH IY", 15, none, false⟩
  | .jpIy => ⟨"JP (IY)", 8, none, false⟩
  | .ldSpIy => ⟨"LD SP,IY", 10, none, false⟩
  | .rlcIndIy _ => ⟨"RLC (IY+d)", 23, none, false⟩
  | .rlcIndIyR _ _ => ⟨"RLC (IY+d),r", 23, none, true⟩
  | .rrcIndIy _ => ⟨"RRC (IY+d)", 23, none, false⟩
  | .rrcIndIyR _ _ => ⟨"RRC (IY+d),r", 23, none, true⟩
  | .rlIndIy _ => ⟨"RL (IY+d)", 23, none, false⟩
  | .rlIndIyR _ _ => ⟨"RL (IY+d),r", 23, none, true⟩
  | .rrIndIy _ => ⟨"RR (IY+d)", 23, none, false⟩
  | .rrIndIyR _ _ => ⟨"RR (IY+d),r", 23, none, true⟩
  | .slaIndIy _ => ⟨"SLA (IY+d)", 23, none, false⟩
  | .slaIndIyR _ _ => ⟨"SLA (IY+d),r", 23, none, true⟩
  | .sraIndIy _ => ⟨"SRA (IY+d)", 23, none, false⟩
  | .sraIndIyR _ _ => ⟨"SRA (IY+d),r", 23, none, true⟩
  | .sllIndIy _ => ⟨"SLL (IY+d)", 23, none, true⟩
  | .sllIndIyR _ _ => ⟨"SLL (IY+d),r", 23, none, true⟩
  | .srlIndIy _ => ⟨"SRL (IY+d)", 23, none, false⟩
  | .srlIndIyR _ _ => ⟨"SRL (IY+d),r", 23, none, true⟩
  | .bitBIndIy _ _ => ⟨"BIT b,(IY+d)", 20, none, false⟩
  | .bitBIndIyAlias _ _ _ => ⟨"BIT b,(IY+d) (alias)", 20, none, true⟩
  | .resBIndIy _ _ => ⟨"RES b,(IY+d)", 23, none, false⟩
  | .resBIndIyR _ _ _ => ⟨"RES b,(IY+d),r", 23, none, true⟩
  | .setBIndIy _ _ => ⟨"SET b,(IY+d)", 23, none, false⟩
  | .setBIndIyR _ _ _ => ⟨"SET b,(IY+d),r", 23, none, true⟩
  | .inRPortC _ => ⟨"IN r,(C)", 12, none, false⟩
  | .inPortC => ⟨"IN (C)", 12, none, true⟩
  | .outPortCR _ => ⟨"OUT (C),r", 12, none, false⟩
  | .outPortCZero => ⟨"OUT (C),0", 12, none, true⟩
  | .sbcHlSs _ => ⟨"SBC HL,ss", 15, none, false⟩
  | .adcHlSs _ => ⟨"ADC HL,ss", 15, none, false⟩
  | .ldIndNnDd _ _ => ⟨"LD (nn),dd", 20, none, false⟩
  | .ldDdIndNn _ _ => ⟨"LD dd,(nn)", 20, none, false⟩
  | .neg => ⟨"NEG", 8, none, false⟩
  | .negMirror _ => ⟨"NEG (mirror)", 8, none, true⟩
  | .retn => ⟨"RETN", 14, none, false⟩
  | .reti => ⟨"RETI", 14, none, false⟩
  | .retnMirror _ => ⟨"RETN (mirror)", 14, none, true⟩
  | .im0 => ⟨"IM 0", 8, none, false⟩
  | .im1 => ⟨"IM 1", 8, none, false⟩
  | .im2 => ⟨"IM 2", 8, none, false⟩
  | .im0Mirror _ => ⟨"IM 0 (mirror)", 8, none, true⟩
  | .im1Mirror => ⟨"IM 1 (mirror)", 8, none, true⟩
  | .im2Mirror => ⟨"IM 2 (mirror)", 8, none, true⟩
  | .ldIA => ⟨"LD I,A", 9, none, false⟩
  | .ldRA => ⟨"LD R,A", 9, none, false⟩
  | .ldAI => ⟨"LD A,I", 9, none, false⟩
  | .ldAR => ⟨"LD A,R", 9, none, false⟩
  | .rrd => ⟨"RRD", 18, none, false⟩
  | .rld => ⟨"RLD", 18, none, false⟩
  | .ldi => ⟨"LDI", 16, none, false⟩
  | .cpi => ⟨"CPI", 16, none, false⟩
  | .ini => ⟨"INI", 16, none, false⟩
  | .outi => ⟨"OUTI", 16, none, false⟩
  | .ldd => ⟨"LDD", 16, none, false⟩
  | .cpd => ⟨"CPD", 16, none, false⟩
  | .ind => ⟨"IND", 16, none, false⟩
  | .outd => ⟨"OUTD", 16, none, false⟩
  | .ldir => ⟨"LDIR", 16, some 21, false⟩
  | .cpir => ⟨"CPIR", 16, some 21, false⟩
  | .inir => ⟨"INIR", 16, some 21, false⟩
  | .otir => ⟨"OTIR", 16, some 21, false⟩
  | .lddr => ⟨"LDDR", 16, some 21, false⟩
  | .cpdr => ⟨"CPDR", 16, some 21, false⟩
  | .indr => ⟨"INDR", 16, some 21, false⟩
  | .otdr => ⟨"OTDR", 16, some 21, false⟩

/-- An opcode table entry (R48) but for its behaviour: template, base cycle cost, operand byte count, undocumented flag, and the second
cost of the conditional and repeating rows (R142). -/
structure OpEntry where
  template     : String
  cycles       : Nat
  cyclesTaken  : Option Nat
  operandBytes : Nat
  undocumented : Bool
deriving DecidableEq, Repr

/-- How many prefix bytes lead to a table (R121). -/
def OpTable.prefixBytes : OpTable → Nat
  | .main => 0
  | .cb => 1
  | .ed => 1
  | .dd => 1
  | .fd => 1
  | .ddcb => 2
  | .fdcb => 2

/-- The instruction entry `op` of a table stands for (R121), with `x` and `y` for the bytes after the opcode byte, in order, or, in the two
tables of double prefixes, `x` for the displacement before it: `none` where the entry is unset, or is a prefix that leads to another table. -/
def OpTable.instrAt (t : OpTable) (op x y : Byte) : Option Instr :=
  match t with
  | .main => decodeMain op x y
  | .cb => some (decodeCB op)
  | .ed => decodeED op x y
  | .dd => decodeDD op x y
  | .fd => decodeFD op x y
  | .ddcb => some (decodeDDCB x op)
  | .fdcb => some (decodeFDCB x op)

/-- The entry of a table that an instruction belongs to. -/
def Instr.entry (i : Instr) (t : OpTable) : OpEntry :=
  { template := i.row.template, cycles := i.row.cycles, cyclesTaken := i.row.cyclesTaken,
    operandBytes := i.length - t.prefixBytes - 1, undocumented := i.row.undocumented }

/-- Entry `op` of a table (R48), `none` where it is unset. It does not depend on the operand bytes. -/
def OpTable.entry (t : OpTable) (op : Byte) : Option OpEntry := (t.instrAt op 0 0).map (·.entry t)

end Sys2Proof
end

