-- ==== Sys2Proof/Machine/Mnemonic.lean ====
section
/-! DEFINITION. The formatted mnemonic (R143 of spec/30_encoding.md, R489 of spec/60_exceptions.md): an entry's template with its operands
substituted. Numbers are written as the spec writes them, 0x and hexadecimal digits (log entry 21). -/

namespace Sys2Proof

/-! ### Operands as text -/

/-- A hexadecimal digit. -/
def hexDigit (k : Nat) : Char := ['0', '1', '2', '3', '4', '5', '6', '7', '8', '9', 'A', 'B', 'C', 'D', 'E', 'F'].getD k '0'

/-- The two hexadecimal digits of a byte. -/
def hexByte (v : Byte) : List Char := [hexDigit (v.toNat / 16), hexDigit (v.toNat % 16)]

/-- `n`: an unsigned number (R143). -/
def byteText (n : Byte) : String := String.ofList ('0' :: 'x' :: hexByte n)

/-- `nn`: an unsigned number (R143). -/
def wordText (nn : Word) : String :=
  String.ofList ('0' :: 'x' :: (hexByte (nn.extractLsb' 8 8) ++ hexByte (nn.extractLsb' 0 8)))

/-- `d` and `e`: a signed displacement, with its sign (R143). -/
def signedText (d : Byte) : String :=
  String.ofList ((if d.msb then '-' else '+') :: '0' :: 'x' :: hexByte (if d.msb then -d else d))

/-- `b`: a bit number. -/
def bitText (b : BitVec 3) : String := String.ofList [hexDigit b.toNat]

/-- `p`: the address a restart goes to (R417). -/
def restartText (t : BitVec 3) : String := byteText (BitVec.ofNat 8 (8 * t.toNat))

/-- Registers by name (R126, R143). -/
def Reg8.text : Reg8 → String
  | .b => "B"
  | .c => "C"
  | .d => "D"
  | .e => "E"
  | .h => "H"
  | .l => "L"
  | .a => "A"

/-- Register pairs by name (R127). -/
def Pair.text : Pair → String
  | .bc => "BC"
  | .de => "DE"
  | .hl => "HL"
  | .sp => "SP"

/-- The pairs of PUSH and POP by name (R127). -/
def QPair.text : QPair → String
  | .bc => "BC"
  | .de => "DE"
  | .hl => "HL"
  | .af => "AF"

/-- The index register a prefix selects, by name (R122). -/
def Idx.text : Idx → String
  | .ix => "IX"
  | .iy => "IY"

/-- The pairs that can be added to an index register, by name (R127). -/
def IdxPair.text (p : IdxPair) (x : Idx) : String :=
  match p with
  | .bc => "BC"
  | .de => "DE"
  | .xy => x.text
  | .sp => "SP"

/-- The condition codes by name (R128). -/
def Cond.text : Cond → String
  | .nz => "NZ"
  | .z => "Z"
  | .nc => "NC"
  | .c => "C"
  | .po => "PO"
  | .pe => "PE"
  | .p => "P"
  | .m => "M"

/-- The last letter of IXH, IXL, IYH, IYL (R143). -/
def Half.text : Half → String
  | .hi => "H"
  | .lo => "L"

/-- The sources of `LD IXh,s` and `LD IYh,s` by name (R143, R179). -/
def IdxSrc.text (s : IdxSrc) (x : Idx) : String :=
  match s with
  | .b => "B"
  | .c => "C"
  | .d => "D"
  | .e => "E"
  | .xh => x.text ++ "H"
  | .xl => x.text ++ "L"
  | .a => "A"

/-- The destinations of `LD r,IXh` and `LD r,IYh` by name (R179). -/
def PlainReg.text : PlainReg → String
  | .b => "B"
  | .c => "C"
  | .d => "D"
  | .e => "E"
  | .a => "A"

/-! ### Substitution -/

/-- The operand words of an instruction's template (R143), each with the text of the operand that stands for it. A displacement is the word
`+d`, since its text has a sign of its own. The second encodings (mirror, alias) carry a code that their template does not name. -/
def Instr.operandTexts : Instr → List (String × String)
  | .nop | .exAfAf | .ldIndBcA | .ldAIndBc | .ldIndDeA | .ldAIndDe | .incIndHl | .decIndHl | .rlca | .rrca | .rla | .rra | .daa | .cpl |
    .scf | .ccf | .halt | .addAIndHl | .adcAIndHl | .subIndHl | .sbcAIndHl | .andIndHl | .xorIndHl | .orIndHl | .cpIndHl | .ret | .exx |
    .jpHl | .ldSpHl | .exIndSpHl | .exDeHl | .di | .ei | .rlcIndHl | .rrcIndHl | .rlIndHl | .rrIndHl | .slaIndHl | .sraIndHl | .sllIndHl |
    .srlIndHl | .incIx | .decIx | .popIx | .exIndSpIx | .pushIx | .jpIx | .ldSpIx | .incIy | .decIy | .popIy | .exIndSpIy | .pushIy |
    .jpIy | .ldSpIy | .inPortC | .outPortCZero | .neg | .retn | .reti | .im0 | .im1 | .im2 | .im1Mirror | .im2Mirror | .ldIA | .ldRA |
    .ldAI | .ldAR | .rrd | .rld | .ldi | .cpi | .ini | .outi | .ldd | .cpd | .ind | .outd | .ldir | .cpir | .inir | .otir | .lddr | .cpdr |
    .indr | .otdr => []
  | .djnzE e | .jrE e | .jrNzE e | .jrZE e | .jrNcE e | .jrCE e => [("e", signedText e)]
  | .ldDdNn p nn | .ldIndNnDd p nn | .ldDdIndNn p nn => [("dd", p.text), ("nn", wordText nn)]
  | .addHlSs p | .incSs p | .decSs p | .sbcHlSs p | .adcHlSs p => [("ss", p.text)]
  | .ldIndNnHl nn | .ldHlIndNn nn | .ldIndNnA nn | .ldAIndNn nn | .jpNn nn | .callNn nn | .ldIxNn nn | .ldIndNnIx nn | .ldIxIndNn nn |
    .ldIyNn nn | .ldIndNnIy nn | .ldIyIndNn nn => [("nn", wordText nn)]
  | .incR r | .decR r | .ldRIndHl r | .ldIndHlR r | .addAR r | .adcAR r | .subR r | .sbcAR r | .andR r | .xorR r | .orR r | .cpR r |
    .rlcR r | .rrcR r | .rlR r | .rrR r | .slaR r | .sraR r | .sllR r | .srlR r | .inRPortC r | .outPortCR r => [("r", r.text)]
  | .ldRN r n => [("r", r.text), ("n", byteText n)]
  | .ldIndHlN n | .addAN n | .adcAN n | .subN n | .sbcAN n | .andN n | .xorN n | .orN n | .cpN n | .outPortNA n | .inAPortN n =>
      [("n", byteText n)]
  | .ldRR r r' => [("r", r.text), ("r'", r'.text)]
  | .retCc cc => [("cc", cc.text)]
  | .popQq p | .pushQq p => [("qq", p.text)]
  | .jpCcNn cc nn | .callCcNn cc nn => [("cc", cc.text), ("nn", wordText nn)]
  | .rstP t => [("p", restartText t)]
  | .bitBR b r | .resBR b r | .setBR b r => [("b", bitText b), ("r", r.text)]
  | .bitBIndHl b | .resBIndHl b | .setBIndHl b => [("b", bitText b)]
  | .addIxPp p => [("pp", p.text .ix)]
  | .incIxHalf h | .decIxHalf h | .addAIxHalf h | .adcAIxHalf h | .subIxHalf h | .sbcAIxHalf h | .andIxHalf h | .xorIxHalf h | .orIxHalf h |
    .cpIxHalf h | .incIyHalf h | .decIyHalf h | .addAIyHalf h | .adcAIyHalf h | .subIyHalf h | .sbcAIyHalf h | .andIyHalf h | .xorIyHalf h |
    .orIyHalf h | .cpIyHalf h => [("h", h.text)]
  | .ldIxHalfN h n | .ldIyHalfN h n => [("h", h.text), ("n", byteText n)]
  | .incIndIx d | .decIndIx d | .addAIndIx d | .adcAIndIx d | .subIndIx d | .sbcAIndIx d | .andIndIx d | .xorIndIx d | .orIndIx d |
    .cpIndIx d | .rlcIndIx d | .rrcIndIx d | .rlIndIx d | .rrIndIx d | .slaIndIx d | .sraIndIx d | .sllIndIx d | .srlIndIx d | .incIndIy d |
    .decIndIy d | .addAIndIy d | .adcAIndIy d | .subIndIy d | .sbcAIndIy d | .andIndIy d | .xorIndIy d | .orIndIy d | .cpIndIy d |
    .rlcIndIy d | .rrcIndIy d | .rlIndIy d | .rrIndIy d | .slaIndIy d | .sraIndIy d | .sllIndIy d | .srlIndIy d => [("+d", signedText d)]
  | .ldIndIxN d n | .ldIndIyN d n => [("+d", signedText d), ("n", byteText n)]
  | .ldRIndIx r d | .ldRIndIy r d => [("r", r.text), ("+d", signedText d)]
  | .ldIndIxR d r | .rlcIndIxR d r | .rrcIndIxR d r | .rlIndIxR d r | .rrIndIxR d r | .slaIndIxR d r | .sraIndIxR d r | .sllIndIxR d r |
    .srlIndIxR d r | .ldIndIyR d r | .rlcIndIyR d r | .rrcIndIyR d r | .rlIndIyR d r | .rrIndIyR d r | .slaIndIyR d r | .sraIndIyR d r |
    .sllIndIyR d r | .srlIndIyR d r => [("+d", signedText d), ("r", r.text)]
  | .ldIxHalfS h s => [("h", h.text), ("s", s.text .ix)]
  | .ldRIxHalf r h | .ldRIyHalf r h => [("r", r.text), ("h", h.text)]
  | .bitBIndIx b d | .resBIndIx b d | .setBIndIx b d | .bitBIndIy b d | .resBIndIy b d | .setBIndIy b d =>
      [("b", bitText b), ("+d", signedText d)]
  | .bitBIndIxAlias b d _ | .bitBIndIyAlias b d _ => [("b", bitText b), ("+d", signedText d)]
  | .resBIndIxR b d r | .setBIndIxR b d r | .resBIndIyR b d r | .setBIndIyR b d r => [("b", bitText b), ("+d", signedText d), ("r", r.text)]
  | .addIyPp p => [("pp", p.text .iy)]
  | .ldIyHalfS h s => [("h", h.text), ("s", s.text .iy)]
  | .negMirror _ | .retnMirror _ | .im0Mirror _ => []

/-- Whether a character of a template belongs to an operand word: every other word of a template is in capitals. -/
def inOperandWord (c : Char) : Bool := c.isLower || c == '+' || c == '\''

/-- A word of a template replaced by its operand's text; a word that names no operand stays. -/
def wordOrText (texts : List (String × String)) (w : List Char) : List Char :=
  ((texts.lookup (String.ofList w)).getD (String.ofList w)).toList

/-- The characters of a template with every operand word replaced, where `w` is what has been read of the word under way. -/
def substituteFrom (texts : List (String × String)) (w : List Char) : List Char → List Char
  | [] => wordOrText texts w
  | c :: cs =>
    if inOperandWord c then substituteFrom texts (w ++ [c]) cs
    else wordOrText texts w ++ c :: substituteFrom texts [] cs

/-- The mnemonic template of the instruction's entry with its operands substituted (R489). -/
def Instr.mnemonic (i : Instr) : String := String.ofList (substituteFrom i.operandTexts [] i.row.template.toList)

end Sys2Proof
end

