-- ==== Sys2Proof/Machine/VdpRender.lean ====
section
/-! DEFINITION. Rendering one scanline (spec/65_platform_devices.md section 4): palette, Mode 4 background and sprites, column mask, blanked
and legacy lines, and the two status bits that sprites set (R546). -/

namespace Sys2Proof.Machine

/-- `PALETTE(c)` (R541). -/
def palette (c : Byte) : Rgba :=
  let part (lo : Nat) : Byte := BitVec.ofNat 8 ((c.extractLsb' lo 2).toNat * 85)
  { r := part 0, g := part 2, b := part 4, a := 255 }

/-- `colour(i)` (R541). -/
def Vdp.colour (v : Vdp) (i : Nat) : Rgba := palette (v.cram.read i)

/-- The backdrop colour (R542). -/
def Vdp.backdrop (v : Vdp) : Rgba := v.colour (16 + (v.reg[7] &&& 0x0F).toNat)

/-- `VRAM[n & 0x3FFF]`. -/
def Vdp.vramAt (v : Vdp) (n : Nat) : Byte := v.vram.read (n % 0x4000)

/-- The four bit planes of a pattern row at `p`, at bit `bit`: a colour number 0 to 15 (R543, R544). -/
def Vdp.planes (v : Vdp) (p bit : Nat) : Nat :=
  let plane (k : Nat) : Nat := ((v.vramAt (p + k)).getLsbD bit).toNat
  plane 0 + 2 * plane 1 + 4 * plane 2 + 8 * plane 3

/-- A background pixel: its index in the two palettes, and whether it hides sprites. -/
structure BgPixel where
  colour : Nat
  prio   : Bool
deriving DecidableEq, Repr

/-- The Mode 4 background at column `x` of line `y` (R543). -/
def Vdp.background (v : Vdp) (y x : Nat) : BgPixel :=
  let hs := if v.regBit 0 6 && decide (y < 16) then 0 else v.reg[8].toNat
  let vs := if v.regBit 0 7 && decide (192 ≤ x) then 0 else v.reg[9].toNat
  let bx := (x + 256 - hs) % 256
  let yy := (y + vs) % 224
  let col := bx / 8
  let fx := bx % 8
  let row := yy / 8
  let fy := yy % 8
  let at' := v.nameTableBase + (row * 32 + col) * 2
  let w : Word := v.vramAt (at' + 1) ++ v.vramAt at'
  let tile := (w.extractLsb' 0 9).toNat
  let ty := if w.getLsbD 10 then 7 - fy else fy
  let bit := if w.getLsbD 9 then fx else 7 - fx
  let c := v.planes (tile * 32 + ty * 4) bit
  { colour := (w.getLsbD 11).toNat * 16 + c, prio := w.getLsbD 12 && c != 0 }

/-- The sprites of a line so far: how many were found, the columns drawn with the colour of the sprite in front, and the two status
flags (R544). -/
structure SpriteScan where
  count     : Nat
  drawn     : List (Int × Nat)
  collision : Bool
  overflow  : Bool
deriving DecidableEq, Repr

/-- One pixel of a sprite at column `x` (R544): transparent and off-screen pixels are skipped, the lower-numbered sprite stays in
front. -/
def SpriteScan.plot (sc : SpriteScan) (x : Int) (c : Nat) : SpriteScan :=
  if c = 0 ∨ x < 0 ∨ 255 < x then sc
  else if (sc.drawn.lookup x).isSome then { sc with collision := true }
  else { sc with drawn := (x, c) :: sc.drawn }

/-- The eight pixels of one row of sprite `i`, whose top line is `top` (R544). -/
def Vdp.plotSprite (v : Vdp) (y i : Nat) (top : Int) (sc : SpriteScan) : SpriteScan :=
  let x0 : Int := (v.vramAt (v.satBase + 0x80 + 2 * i)).toNat
  let sx := if v.regBit 0 3 then x0 - 8 else x0
  let n0 := (v.vramAt (v.satBase + 0x81 + 2 * i)).toNat
  let n := if v.regBit 1 1 then n0 / 2 * 2 else n0
  let p := v.spritePatternBase + n * 32 + ((y : Int) - top).toNat * 4
  (List.range 8).foldl (fun sc (k : Nat) => sc.plot (sx + k) (v.planes p (7 - k))) sc

/-- The sprites from number `i` on, `k` of them left (R544): the sentinel 0xD0 ends the scan, and so does the ninth sprite of the line,
which sets overflow. -/
def Vdp.scanSprites (v : Vdp) (y : Nat) : Nat → Nat → SpriteScan → SpriteScan
  | 0, _, sc => sc
  | k + 1, i, sc =>
    let sy := (v.vramAt (v.satBase + i)).toNat
    if sy = 0xD0 then sc
    else
      let top : Int := if 0xE0 ≤ sy then (sy : Int) + 1 - 256 else (sy : Int) + 1
      let height : Int := if v.regBit 1 1 then 16 else 8
      if top ≤ (y : Int) ∧ (y : Int) < top + height then
        if sc.count + 1 = 9 then { sc with count := 9, overflow := true }
        else v.scanSprites y k (i + 1) (v.plotSprite y i top { sc with count := sc.count + 1 })
      else v.scanSprites y k (i + 1) sc

/-- All 64 sprites of line `y` (R544). -/
def Vdp.sprites (v : Vdp) (y : Nat) : SpriteScan :=
  v.scanSprites y 64 0 { count := 0, drawn := [], collision := false, overflow := false }

/-- The pixel of a Mode 4 line at column `x`: column mask (R545), then a sprite not hidden by the background (R544), then the background
(R543). -/
def Vdp.mode4Pixel (v : Vdp) (y : Nat) (sc : SpriteScan) (x : Nat) : Rgba :=
  if v.regBit 0 5 && decide (x < 8) then v.backdrop
  else
    let bg := v.background y x
    match sc.drawn.lookup (x : Int) with
    | some c => if bg.prio then v.colour bg.colour else v.colour (16 + c)
    | none => v.colour bg.colour

/-- The status byte after the sprites of a line: bit 6 overflow, bit 5 collision, sticky (R506, R546). -/
def Vdp.spriteStatus (v : Vdp) (sc : SpriteScan) : Byte :=
  v.status ||| (if sc.overflow then 0x40 else 0) ||| (if sc.collision then 0x20 else 0)

/-- A line of `screenW` pixels. -/
def lineOf (f : Nat → Rgba) : List Rgba := (List.range Config.screenW).map f

/-- The pixel buffer with line `y` replaced, lines kept in rising order. -/
def putLine : List (Nat × List Rgba) → Nat → List Rgba → List (Nat × List Rgba)
  | [], y, l => [(y, l)]
  | (k, m) :: rest, y, l =>
    if y < k then (y, l) :: (k, m) :: rest
    else if y = k then (y, l) :: rest
    else (k, m) :: putLine rest y l

/-- A pixel the spec leaves open, from one draw (R548, U2). -/
def freePixelAt (draw x : Nat) : Rgba :=
  let q := Config.freePixel draw x
  { r := q.1, g := q.2.1, b := q.2.2.1, a := q.2.2.2 }

/-- `render(y)` (R542): a blanked line, a Mode 4 line, or a legacy line whose pixels are free values (R548). -/
def State.render (s : State) (y : Nat) : State :=
  let v := s.vdp
  if !v.regBit 1 6 then
    { s with outputs := { s.outputs with screen := putLine s.outputs.screen y (lineOf fun _ => v.backdrop) } }
  else if v.regBit 0 2 then
    let sc := v.sprites y
    { s with
      vdp := { v with status := v.spriteStatus sc }
      outputs := { s.outputs with screen := putLine s.outputs.screen y (lineOf (v.mode4Pixel y sc)) } }
  else
    { s with
      outputs := { s.outputs with screen := putLine s.outputs.screen y (lineOf (freePixelAt s.freeDraws)) }
      freeDraws := s.freeDraws + 1 }

end Sys2Proof.Machine
end

