-- ==== Sys2Proof/Machine/VdpAdvance.lean ====
section
/-! DEFINITION. `VDP.advance(n)` (R525): the driver advances the VDP by the cycles a CPU step consumed. -/

namespace Sys2Proof.Machine

/-- One scanline crossing: the body of the loop of R525, in its order: counters, line-counter event, frame event, rendering of the line
just completed, frame boundary. -/
def State.crossLine (s : State) : State :=
  let done := s.vdp.line
  let line := (done + 1) % Config.linesPerFrame
  let v := { s.vdp with hCounter := s.vdp.hCounter - Config.cyclesPerLine, line := line, vCounter := vcount line }
  let e1 := v.lineCounterEvent line
  let e2 := if line = Config.activeLines then e1.1.frameInterruptEvent else (e1.1, false)
  let s1 := { s with vdp := e2.1, pendingInt := s.pendingInt || e1.2 || e2.2 }
  let s2 := if done < Config.activeLines then s1.render done else s1
  if line = 0 then { s2 with outputs := { s2.outputs with frameDone := true } } else s2

/-- `k` scanline crossings. -/
def State.crossLines : Nat → State → State
  | 0, s => s
  | k + 1, s => State.crossLines k s.crossLine

/-- `VDP.advance(n)` (R525). The loop runs once for each whole scanline in the horizontal counter, which is that many crossings (log entry
12). The value it returns is kept in `outputs.frameDone` (R532). -/
def State.advance (s : State) (n : Nat) : State :=
  let h := s.vdp.hCounter + n
  State.crossLines (h / Config.cyclesPerLine)
    { s with vdp := { s.vdp with hCounter := h }, outputs := { s.outputs with frameDone := false } }

end Sys2Proof.Machine
end

