-- ==== Sys2Proof/Machine/Driver.lean ====
section
/-! DEFINITION. Fetching (R121), the CPU's `step()` (R470), the driver's turn around it (R471), the turns of the mixer and of the host
(R17), and placing an instruction where the next fetch reads it. -/

namespace Sys2Proof.Machine

/-- The number of opcode fetches of an instruction (R39): 1 for the main table, 2 for every prefixed one. -/
def fetchCount : OpTable → Nat
  | .main => 1
  | .cb => 2
  | .ed => 2
  | .dd => 2
  | .fd => 2
  | .ddcb => 2
  | .fdcb => 2

namespace State

/-- The decoder at an address (R121): memory reads have no side effect (R92), so four bytes are read whatever the length (log entry
11). -/
def decodeFrom (s : State) (a : Word) : Decoded :=
  decode (s.read a) (s.read (a + 1)) (s.read (a + 2)) (s.read (a + 3))

/-- The decoder at PC. -/
def fetch (s : State) : Decoded := s.decodeFrom s.pc

/-- The last lines of R470: decode, advance R, run the behaviour. An unset entry is a fault (R460). -/
def runInstruction (s : State) : Result :=
  match s.fetch with
  | .instr table i => exec i (s.bumpR (fetchCount table))
  | .unset table op => .fault (.unimplementedOpcode table op)

/-- A step spent halted (R470, R484). -/
def idle (s : State) : State := { s with cycles := s.cycles + 4 }.bumpR 1

/-- The CPU's `step()` (R470, R473): NMI, then INT unless `postEi` suppresses it, then the halted idle, then an instruction. A fault
abandons the whole step (R460, R461): the driver keeps the state it had (log entry 9). -/
def cpuStep (s : State) : Result :=
  let t := { s with postEi := false }
  if s.pendingNmi then t.acceptNmi
  else if s.pendingInt && s.iff1 && !s.postEi then t.acceptInt
  else if s.halted then .next t.idle
  else t.runInstruction

/-- One turn of the driver (R471): a CPU step, then the VDP is advanced by the cycles it consumed. -/
def driverTurn (s : State) : Result :=
  andThen s.cpuStep fun t => .next (t.advance (t.cycles - s.cycles))

/-- One turn of the mixer (R563, R565): one sample. -/
def mixerTurn (s : State) : State :=
  { s with psg := s.psg.mixOne.2, outputs := { s.outputs with audio := s.outputs.audio ++ [s.psg.mixOne.1] } }

/-- The teardown (R17, R580): nothing of the four blocks, the FIFO and the buffers is left, and the machine is constructed anew. The turns
still to come and the count of free values drawn are the model's own and stay, so that no draw is made twice (log entry 26). -/
def torndown (s : State) (next : ResetParams) : State :=
  { State.resetWith next with schedule := s.schedule, freeDraws := s.freeDraws }

/-- One turn of one agent (R17). -/
def takeTurn (s : State) : Turn → Result
  | .driver => s.driverTurn
  | .mixer => .next s.mixerTurn
  | .raiseNmi => .next { s with pendingNmi := true }
  | .setButtons v => .next { s with inputs := { s.inputs with buttons := v } }
  | .setJoypadB v => .next { s with inputs := { s.inputs with joypadB := v } }
  | .takeFrame => .next { s with outputs := { s.outputs with frameDone := false } }
  | .takeSamples n => .next { s with outputs := { s.outputs with audio := s.outputs.audio.drop n } }
  | .teardown next => .next (s.torndown next)

/-- The next turn of `schedule`, the driver's where none is listed (log entry 4). -/
def turn (s : State) : Result :=
  match s.schedule with
  | [] => s.driverTurn
  | t :: rest => { s with schedule := rest }.takeTurn t

/-! ### Placing an instruction -/

/-- The bytes `bs` put into the cells the addresses from `a` on name, past the mapper. -/
def loadBytes (s : State) (a : Word) : List Byte → State
  | [] => s
  | b :: bs => { s with mmu := s.mmu.load a b }.loadBytes (a + 1) bs

/-- The four bytes in the cells at PC, and what keeps the very next step from fetching them out of the way: the halted state, the request
that would be accepted first, and the turns of other agents that come first. -/
def placeAtPc (s : State) (bs : List Byte) : State :=
  { s with
    halted := false
    pendingNmi := false
    pendingInt := s.pendingInt && !(s.iff1 && !s.postEi)
    schedule := s.schedule.dropWhile (· ≠ Turn.driver) }.loadBytes s.pc
      [bs.getD 0 0, bs.getD 1 0, bs.getD 2 0, bs.getD 3 0]

/-! ### The debug contract -/

/-- What `decodeAt` returns (R489): the length, that many bytes, and the mnemonic: the entry's template with its operands substituted. Beside
these, the template itself and the instruction, both `none` for an unset entry (log entry 21). -/
structure Disassembly where
  length   : Nat
  bytes    : List Byte
  mnemonic : String
  template : Option String
  instr    : Option Instr
deriving DecidableEq, Repr

/-- The length `decodeAt` reports for an unset entry (R489). -/
def unsetLength : OpTable → Nat
  | .main => 1
  | .cb => 2
  | .ed => 2
  | .dd => 2
  | .fd => 2
  | .ddcb => 4
  | .fdcb => 4

/-- The mnemonic that marks an unset entry (R489). -/
def unsetMnemonic : String := "unset entry"

/-- `decodeAt(a)` (R489). It reads memory, no port, and changes nothing. -/
def decodeAt (s : State) (a : Word) : Disassembly :=
  let bytes (n : Nat) : List Byte := (List.range n).map fun k => s.read (a + BitVec.ofNat 16 k)
  match s.decodeFrom a with
  | .instr _ i =>
    { length := i.length, bytes := bytes i.length, mnemonic := i.mnemonic, template := some i.row.template, instr := some i }
  | .unset table _ =>
    { length := unsetLength table, bytes := bytes (unsetLength table), mnemonic := unsetMnemonic, template := none, instr := none }

end State

end Sys2Proof.Machine
end

