-- ==== Sys2Proof/Machine/Step.lean ====
section
/-! DEFINITION. One step of the machine, and placing an instruction for the next step to run. -/

namespace Sys2Proof.Machine

/-- One step: one turn of one agent (`State.turn`; log entry 4). -/
def step (s : State) : Host.Outcome State Fault Refusal := s.turn

/-- The state with the instruction whose bits are `w`, numbered as spec/opcode_table.json numbers them, stored at PC, so that the very next
step fetches and runs it. It stands for the load of a program from outside the machine (log entry 3). -/
def State.withFetchWord (s : State) (nbits w : Nat) : State := s.placeAtPc (tableBytes nbits w)

end Sys2Proof.Machine
end

