-- ==== Sys2Proof/Safety.lean ====
section
/-! DEFINITION. The terms claims are stated in: the invariant of the machine and a safe run, what a store does, the flags in terms of
integers, and how an instruction ends. Nothing here is run by the machine. -/

namespace Sys2Proof.Safety

open Sys2Proof.Machine

/-! ### The invariant and safe runs -/

/-- A memory in canonical form whose cells all lie below its size. -/
def MemoryOk (m : Memory) (size : Nat) : Prop := m.wf ∧ m.below size

/-- The MMU part of the invariant: five memories in their sizes (R51, R80, R82), slots bound to banks that exist (R86), cartridge RAM only
under the SEGA mapper (R88), the Korean mapper's fixed slots (R89). -/
structure MmuOk (m : Mmu) : Prop where
  banks   : 3 ≤ m.bankCount
  rom     : MemoryOk m.rom.cells m.rom.length
  sysRam  : MemoryOk m.sysRam 0x2000
  cartRam : MemoryOk m.cartRam 0x8000
  slots   : m.slot0 < m.bankCount ∧ m.slot1 < m.bankCount ∧ m.slot2 < m.bankCount
  noRam   : m.mapper ≠ .sega → m.ramEnable = false ∧ m.ramBank = false
  korean  : m.mapper = .korean → m.slot0 = 0 ∧ m.slot1 = 1

/-- The VDP part of the invariant: memories in their sizes (R503, R504), counters in their ranges and `vCounter` the V counter of the line
(R510, R528), the five status bits that read 0 (R506). -/
structure VdpOk (v : Vdp) : Prop where
  vram     : MemoryOk v.vram 0x4000
  cram     : MemoryOk v.cram 0x20
  line     : v.line < 262
  hCounter : v.hCounter < 228
  vCounter : v.vCounter = vcount v.line
  status   : v.status &&& 0x1F = 0

/-- The FIFO's stamps do not decrease and are no later than now (R555, R557). -/
def FifoOk (fifo : List PsgEvent) (now : Nat) : Prop :=
  fifo.Pairwise (fun x y => x.cycle ≤ y.cycle) ∧ ∀ e ∈ fifo, e.cycle ≤ now

/-- The pixel buffer holds lines 0 to 191, each once, each of 256 pixels (R540). -/
def ScreenOk (screen : List (Nat × List Rgba)) : Prop :=
  screen.Pairwise (fun x y => x.1 < y.1) ∧ ∀ l ∈ screen, l.1 < 192 ∧ l.2.length = 256

/-- The invariant of the machine. -/
structure Inv (s : State) : Prop where
  mmu    : MmuOk s.mmu
  vdp    : VdpOk s.vdp
  fifo   : FifoOk s.psg.fifo s.cycles
  screen : ScreenOk s.outputs.screen

/-- A run of `n` steps from `s` to `t` in which no step stops: a safe run. -/
def RunsTo : Nat → State → State → Prop
  | 0, s, t => s = t
  | n + 1, s, t => ∃ u, step s = .next u ∧ RunsTo n u t

/-! ### What a store does (R74, R86, R87, R88, R90) -/

/-- The store faults: an unsupported control byte to 0xFFFC under the SEGA mapper (R461). -/
def StoreFaults (m : Mmu) (a : Word) (v : Byte) : Prop :=
  m.mapper = .sega ∧ a = 0xFFFC ∧ (v.getLsbD 4 = true ∨ v.getLsbD 1 = true ∨ v.getLsbD 0 = true)

/-- The slot that a store at `a` binds (R89); a mapper register below 0xC000 is hidden while cartridge RAM is mapped there (R74). -/
def slotRegister (m : Mmu) (a : Word) : Option (Fin 3) :=
  match m.mapper with
  | .sega => if a = 0xFFFD then some 0 else if a = 0xFFFE then some 1 else if a = 0xFFFF then some 2 else none
  | .codemasters =>
    if a = 0x0000 then some 0 else if a = 0x4000 then some 1
    else if a = 0x8000 ∧ m.ramEnable = false then some 2 else none
  | .korean => if a = 0xA000 ∧ m.ramEnable = false then some 2 else none

/-- `a` is the control register of the SEGA mapper. -/
def IsControl (m : Mmu) (a : Word) : Prop := m.mapper = .sega ∧ a = 0xFFFC

/-- A cell that a store can change. -/
def IsRam : Place → Prop
  | .rom _ => False
  | .cartRam _ => True
  | .sysRam _ => True

/-- The MMU `m'` after a store of `v` at `a` that does not fault: `cells` is the frame over every cell of every memory, `reads` the frame
over addresses where the store is not to a mapper register (which remaps addresses). -/
structure StoreEffect (m m' : Mmu) (a : Word) (v : Byte) : Prop where
  hit       : IsRam (m.place a) → m'.readPlace (m.place a) = v
  cells     : ∀ p, p ≠ m.place a ∨ ¬ IsRam (m.place a) → m'.readPlace p = m.readPlace p
  slot0     : m'.slot0 = if slotRegister m a = some 0 then v.toNat % m.bankCount else m.slot0
  slot1     : m'.slot1 = if slotRegister m a = some 1 then v.toNat % m.bankCount else m.slot1
  slot2     : m'.slot2 = if slotRegister m a = some 2 then v.toNat % m.bankCount else m.slot2
  enable    : IsControl m a → m'.ramEnable = v.getLsbD 3 ∧ m'.ramBank = v.getLsbD 2
  noEnable  : ¬ IsControl m a → m'.ramEnable = m.ramEnable ∧ m'.ramBank = m.ramBank
  cartridge : m'.rom = m.rom ∧ m'.bankCount = m.bankCount ∧ m'.mapper = m.mapper
  reads     : slotRegister m a = none → ¬ IsControl m a →
    ∀ b, m'.read b = m.read b ∨ (m.place b = m.place a ∧ IsRam (m.place a) ∧ m'.read b = v)

/-- `o` is the outcome of storing `v` at `a` over the MMU `m` and, where the store does not fault, ending in `t` with the MMU that the store
leaves (the MMU written in `t` says nothing). -/
def StoresByte (o : Result) (m : Mmu) (a : Word) (v : Byte) (t : State) : Prop :=
  (StoreFaults m a v → o = .fault (.unsupportedMapperControl v)) ∧
  (¬ StoreFaults m a v → ∃ m', StoreEffect m m' a v ∧ o = .next { t with mmu := m' })

/-- The same for two stores, in this order: `v1` at `a1`, then `v2` at `a2`. -/
def StoresTwo (o : Result) (m : Mmu) (a1 : Word) (v1 : Byte) (a2 : Word) (v2 : Byte) (t : State) : Prop :=
  (StoreFaults m a1 v1 → o = .fault (.unsupportedMapperControl v1)) ∧
  (¬ StoreFaults m a1 v1 → StoreFaults m a2 v2 → o = .fault (.unsupportedMapperControl v2)) ∧
  (¬ StoreFaults m a1 v1 → ¬ StoreFaults m a2 v2 →
    ∃ m1 m2, StoreEffect m m1 a1 v1 ∧ StoreEffect m1 m2 a2 v2 ∧ o = .next { t with mmu := m2 })

/-- A push of `v` on the stack at `sp`: the high byte at `sp - 1`, then the low byte at `sp - 2` (R12, R26). -/
def Pushes (o : Result) (m : Mmu) (sp v : Word) (t : State) : Prop :=
  StoresTwo o m (sp - 1) (v.extractLsb' 8 8) (sp - 2) (v.extractLsb' 0 8) t

/-! ### Encodings -/

/-- The table that two opening bytes select (R121). -/
def tableAt (b0 b1 : Byte) : OpTable :=
  if b0 = 0xCB then .cb
  else if b0 = 0xED then .ed
  else if b0 = 0xDD then (if b1 = 0xCB then .ddcb else .dd)
  else if b0 = 0xFD then (if b1 = 0xCB then .fdcb else .fd)
  else .main

/-- The ED entries that are populated (R134). -/
def edPopulated (op : Byte) : Bool :=
  (decide (0x40 ≤ op.toNat) && decide (op.toNat ≤ 0x7F) && op != 0x77 && op != 0x7F) ||
    (decide (0xA0 ≤ op.toNat) && decide (op.toNat ≤ 0xBF) && decide (op.toNat % 8 < 4))

/-- The DD and FD entries that are populated (R136), in that rule's order; 0xCB is a second prefix. -/
def xyPopulated : List Byte :=
  [0x09, 0x19, 0x29, 0x39, 0x21, 0x22, 0x23, 0x2A, 0x2B, 0x24, 0x2C, 0x25, 0x2D, 0x26, 0x2E, 0x34, 0x35, 0x36] ++
  [0x46, 0x4E, 0x56, 0x5E, 0x66, 0x6E, 0x7E, 0x70, 0x71, 0x72, 0x73, 0x74, 0x75, 0x77] ++
  [0x44, 0x45, 0x4C, 0x4D, 0x54, 0x55, 0x5C, 0x5D, 0x7C, 0x7D, 0x60, 0x61, 0x62, 0x63, 0x64, 0x65, 0x67] ++
  [0x68, 0x69, 0x6A, 0x6B, 0x6C, 0x6D, 0x6F, 0x86, 0x8E, 0x96, 0x9E, 0xA6, 0xAE, 0xB6, 0xBE] ++
  [0x84, 0x85, 0x8C, 0x8D, 0x94, 0x95, 0x9C, 0x9D, 0xA4, 0xA5, 0xAC, 0xAD, 0xB4, 0xB5, 0xBC, 0xBD] ++
  [0xE1, 0xE3, 0xE5, 0xE9, 0xF9]

/-- The opcode byte of an instruction of a table among the four bytes at PC (R121): the first, the one after a prefix, or the last of a double
prefix. -/
def opcodeByte (t : OpTable) (b0 b1 b3 : Byte) : Byte :=
  match t with
  | .main => b0
  | .cb | .ed | .dd | .fd => b1
  | .ddcb | .fdcb => b3

/-- How many entries of a table are populated (R135). -/
def populatedCount : OpTable → Nat
  | .main => 252
  | .cb => 256
  | .ed => 78
  | .dd => 85
  | .fd => 85
  | .ddcb => 256
  | .fdcb => 256

/-- The DD and FD entries that are flagged undocumented (R139), in that rule's order. -/
def xyUndocumented : List Byte :=
  [0x24, 0x25, 0x26, 0x2C, 0x2D, 0x2E] ++
  [0x44, 0x45, 0x4C, 0x4D, 0x54, 0x55, 0x5C, 0x5D, 0x60, 0x61, 0x62, 0x63, 0x64, 0x65, 0x67] ++
  [0x68, 0x69, 0x6A, 0x6B, 0x6C, 0x6D, 0x6F, 0x7C, 0x7D] ++
  [0x84, 0x85, 0x8C, 0x8D, 0x94, 0x95, 0x9C, 0x9D, 0xA4, 0xA5, 0xAC, 0xAD, 0xB4, 0xB5, 0xBC, 0xBD]

/-- The ED entries that are flagged undocumented (R139). -/
def edUndocumented : List Byte :=
  [0x70, 0x71] ++ [0x4C, 0x54, 0x5C, 0x64, 0x6C, 0x74, 0x7C] ++ [0x55, 0x5D, 0x65, 0x6D, 0x75, 0x7D] ++
  [0x4E, 0x66, 0x6E, 0x76, 0x7E]

/-- The entries that are flagged undocumented (R139). -/
def undocumentedAt (t : OpTable) (op : Byte) : Bool :=
  let sll := decide (0x30 ≤ op.toNat) && decide (op.toNat ≤ 0x37)
  match t with
  | .main => false
  | .cb => sll
  | .ed => edUndocumented.contains op
  | .dd => xyUndocumented.contains op
  | .fd => xyUndocumented.contains op
  | .ddcb => sll || op.toNat % 8 != 6
  | .fdcb => sll || op.toNat % 8 != 6

/-! ### Steps -/

/-- What the four bytes at PC decode to. -/
def fetched (s : State) : Decoded := decode (s.read s.pc) (s.read (s.pc + 1)) (s.read (s.pc + 2)) (s.read (s.pc + 3))

/-- A maskable interrupt would be accepted at the head of a CPU step, were there no NMI (R470). -/
def IntReady (s : State) : Prop := s.pendingInt = true ∧ s.iff1 = true ∧ s.postEi = false

/-- The next step is the driver's and executes the instruction at PC (R470, R471). -/
structure Running (s : State) : Prop where
  driver : s.schedule = []
  noNmi  : s.pendingNmi = false
  noInt  : ¬ IntReady s
  awake  : s.halted = false

/-- R after `k` opcode fetches: bits 6 to 0 count modulo 128, bit 7 is kept (R39). -/
def refreshed (r : Byte) (k : Nat) : Byte := BitVec.ofNat 8 (r.toNat / 128 * 128 + (r.toNat + k) % 128)

/-- The turn the driver completes: the VDP is advanced by the cycles the CPU step took (R471). -/
def thenAdvance (c : Nat) : Result → Result
  | .next t => .next (t.advance (t.cycles - c))
  | .fault f => .fault f
  | .refused r => .refused r

/-! ### Flags in terms of integers -/

/-- S, Z, Y, X of an 8-bit result (R33, R270). -/
structure ResultFlags (res f : Byte) : Prop where
  s : flagS f = true ↔ res.toInt < 0
  z : flagZ f = true ↔ res = 0
  y : flagY f = res.getLsbD 5
  x : flagX f = res.getLsbD 3

/-- A signed 8-bit overflow: the exact result does not fit. -/
def Overflows8 (t : Int) : Prop := t < -128 ∨ 127 < t

/-- A signed 16-bit overflow. -/
def Overflows16 (t : Int) : Prop := t < -32768 ∨ 32767 < t

/-- The flags of `a + b + c` (R270). -/
structure AddFlags (a b : Byte) (c : Bool) (f : Byte) : Prop where
  result : ResultFlags (a + b + BitVec.ofNat 8 c.toNat) f
  h      : flagH f = true ↔ 16 ≤ a.toNat % 16 + b.toNat % 16 + c.toNat
  pv     : flagPV f = true ↔ Overflows8 (a.toInt + b.toInt + c.toNat)
  n      : flagN f = false
  c      : flagC f = true ↔ 256 ≤ a.toNat + b.toNat + c.toNat

/-- The flags of `a - b - c` (R271) but for Y and X. -/
structure SubFlagsBut (a b : Byte) (c : Bool) (f : Byte) : Prop where
  s  : flagS f = true ↔ (a - b - BitVec.ofNat 8 c.toNat).toInt < 0
  z  : flagZ f = true ↔ a - b - BitVec.ofNat 8 c.toNat = 0
  h  : flagH f = true ↔ a.toNat % 16 < b.toNat % 16 + c.toNat
  pv : flagPV f = true ↔ Overflows8 (a.toInt - b.toInt - c.toNat)
  n  : flagN f = true
  c  : flagC f = true ↔ a.toNat < b.toNat + c.toNat

/-- The flags of `a - b - c` (R271). -/
structure SubFlags (a b : Byte) (c : Bool) (f : Byte) : Prop where
  but : SubFlagsBut a b c f
  y   : flagY f = (a - b - BitVec.ofNat 8 c.toNat).getLsbD 5
  x   : flagX f = (a - b - BitVec.ofNat 8 c.toNat).getLsbD 3

/-- An even number of 1 bits (R10). -/
def EvenOnes (v : Byte) : Prop := (List.range 8).countP (fun k => v.getLsbD k) % 2 = 0

/-- The flags of a result with parity in PV (R272, R354, R310, R363, R431), H, N and C as given. -/
structure ParityFlags (res : Byte) (h n c : Bool) (f : Byte) : Prop where
  result : ResultFlags res f
  pv     : flagPV f = true ↔ EvenOnes res
  h      : flagH f = h
  n      : flagN f = n
  c      : flagC f = c

/-- The flags of `v + 1` from the old F (R273). -/
structure IncFlags (v old f : Byte) : Prop where
  result : ResultFlags (v + 1) f
  h      : flagH f = true ↔ v.toNat % 16 = 15
  pv     : flagPV f = true ↔ v.toInt = 127
  n      : flagN f = false
  c      : flagC f = flagC old

/-- The flags of `v - 1` from the old F (R274). -/
structure DecFlags (v old f : Byte) : Prop where
  result : ResultFlags (v - 1) f
  h      : flagH f = true ↔ v.toNat % 16 = 0
  pv     : flagPV f = true ↔ v.toInt = -128
  n      : flagN f = true
  c      : flagC f = flagC old

/-- S, Z and PV as in the old F; Y and X from `res`; H, N, C as given (R311, R313, R314, R338, R350). -/
structure KeepsSZP (res : Byte) (h n c : Bool) (old f : Byte) : Prop where
  s  : flagS f = flagS old
  z  : flagZ f = flagZ old
  pv : flagPV f = flagPV old
  y  : flagY f = res.getLsbD 5
  x  : flagX f = res.getLsbD 3
  h  : flagH f = h
  n  : flagN f = n
  c  : flagC f = c

/-- The flags of a 16-bit sum or difference `t` (R331, R332), H and N as given. -/
structure WideFlags (res : Word) (h n c : Bool) (overflow : Prop) (f : Byte) : Prop where
  s  : flagS f = true ↔ res.toInt < 0
  z  : flagZ f = true ↔ res = 0
  y  : flagY f = res.getLsbD 13
  x  : flagX f = res.getLsbD 11
  h  : flagH f = h
  pv : flagPV f = true ↔ overflow
  n  : flagN f = n
  c  : flagC f = c

/-- The result of a rotate or shift of `v` with carry `c`, as a number (R355 to R362). -/
def rotated (op : RotOp) (v c : Nat) : Nat :=
  match op with
  | .rlc => 2 * v % 256 + v / 128
  | .rrc => v / 2 + 128 * (v % 2)
  | .rl => 2 * v % 256 + c
  | .rr => v / 2 + 128 * c
  | .sla => 2 * v % 256
  | .sra => v / 2 + 128 * (v / 128)
  | .sll => 2 * v % 256 + 1
  | .srl => v / 2

/-- The bit a rotate or shift moves out: bit 7 to the left, bit 0 to the right. -/
def movedOut (op : RotOp) (v : Byte) : Bool :=
  match op with
  | .rlc | .rl | .sla | .sll => decide (128 ≤ v.toNat)
  | .rrc | .rr | .sra | .srl => decide (v.toNat % 2 = 1)

/-- The value and flags of a CB-table rotate or shift of `v` under the old F (R354). -/
structure Rotated (op : RotOp) (v old res f : Byte) : Prop where
  value : res.toNat = rotated op v.toNat (flagC old).toNat
  flags : ParityFlags res false false (movedOut op v) f

/-- The flags of a bit test (R390): `yx` supplies Y and X. -/
structure BitFlags (b : BitVec 3) (v yx old f : Byte) : Prop where
  z  : flagZ f = true ↔ v.toNat / 2 ^ b.toNat % 2 = 0
  pv : flagPV f = flagZ f
  s  : flagS f = true ↔ b = 7 ∧ 128 ≤ v.toNat
  y  : flagY f = yx.getLsbD 5
  x  : flagX f = yx.getLsbD 3
  h  : flagH f = true
  n  : flagN f = false
  c  : flagC f = flagC old

/-- `res` is `v` with bit `b` made `x` (R383, R386). -/
def BitMade (b : BitVec 3) (x : Bool) (v res : Byte) : Prop :=
  ∀ k, k < 8 → res.getLsbD k = if k = b.toNat then x else v.getLsbD k

/-- The flags of a block transfer (R245): `sum` is A plus the byte moved. -/
structure MoveFlags (sum : Byte) (bc : Word) (old f : Byte) : Prop where
  s  : flagS f = flagS old
  z  : flagZ f = flagZ old
  c  : flagC f = flagC old
  h  : flagH f = false
  n  : flagN f = false
  pv : flagPV f = true ↔ bc ≠ 0
  y  : flagY f = sum.getLsbD 1
  x  : flagX f = sum.getLsbD 3

/-- The flags of a block search (R249): A compared with `v`, `bc` the new BC. -/
structure SearchFlags (a v : Byte) (bc : Word) (old f : Byte) : Prop where
  s  : flagS f = true ↔ (a - v).toInt < 0
  z  : flagZ f = true ↔ a = v
  h  : flagH f = true ↔ a.toNat % 16 < v.toNat % 16
  pv : flagPV f = true ↔ bc ≠ 0
  n  : flagN f = true
  c  : flagC f = flagC old
  yx : ∃ w : Byte, w = (a - v) - BitVec.ofNat 8 (flagH f).toNat ∧ flagY f = w.getLsbD 1 ∧ flagX f = w.getLsbD 3

/-- The flags of a block input or output (R445): `v` the byte moved, `k` the nine-bit sum, `b` the new B. -/
structure IoFlags (v : Byte) (k : Nat) (b f : Byte) : Prop where
  result : ResultFlags b f
  n      : flagN f = true ↔ 128 ≤ v.toNat
  h      : flagH f = true ↔ 256 ≤ k
  c      : flagC f = true ↔ 256 ≤ k
  pv     : flagPV f = true ↔ EvenOnes (BitVec.ofNat 8 (k % 8) ^^^ b)

/-! ### Sprites (R544) -/

/-- The Y byte of sprite `i`. -/
def spriteY (v : Vdp) (i : Nat) : Nat := (v.vram.read ((v.satBase + i) % 0x4000)).toNat

/-- The top line of sprite `i`: one below its Y byte, from 0xE0 on above the screen. -/
def spriteTop (v : Vdp) (i : Nat) : Int := if 0xE0 ≤ spriteY v i then (spriteY v i : Int) + 1 - 256 else (spriteY v i : Int) + 1

/-- Sprites are 16 lines high. -/
def tallSprites (v : Vdp) : Bool := v.reg[1].getLsbD 1

/-- Line `y` crosses sprite `i`. -/
def spriteOnLine (v : Vdp) (y i : Nat) : Bool :=
  decide (spriteTop v i ≤ y ∧ (y : Int) < spriteTop v i + if tallSprites v then 16 else 8)

/-- The sprites before the first sentinel that fall on line `y`, lowest number first. -/
def spritesOf (v : Vdp) (y : Nat) : List Nat :=
  ((List.range 64).takeWhile fun i => decide (spriteY v i ≠ 0xD0)).filter (spriteOnLine v y)

/-- The column of the leftmost pixel of sprite `i`, which may lie left of the screen. -/
def spriteLeft (v : Vdp) (i : Nat) : Int :=
  (v.vram.read ((v.satBase + 0x80 + 2 * i) % 0x4000)).toNat - if v.reg[0].getLsbD 3 then 8 else 0

/-- Where the four bytes of the pattern row of sprite `i` on line `y` begin. -/
def spriteRow (v : Vdp) (y i : Nat) : Nat :=
  let n := (v.vram.read ((v.satBase + 0x81 + 2 * i) % 0x4000)).toNat
  v.spritePatternBase + (if tallSprites v then n / 2 * 2 else n) * 32 + ((y : Int) - spriteTop v i).toNat * 4

/-- Sprite `i` has a pixel at column `x` of line `y` that is not transparent: one of the four bytes of its pattern row has the bit of that
column set. -/
def SpriteOpaqueAt (v : Vdp) (y i x : Nat) : Prop :=
  ∃ k : Nat, k < 8 ∧ (x : Int) = spriteLeft v i + k ∧
    ∃ b : Nat, b < 4 ∧ (v.vram.read ((spriteRow v y i + b) % 0x4000)).getLsbD (7 - k) = true

/-- Two of the sprites shown on line `y`, the first eight at most, meet in an opaque pixel on the screen. -/
def SpritesMeet (v : Vdp) (y : Nat) : Prop :=
  ∃ i ∈ (spritesOf v y).take 8, ∃ j ∈ (spritesOf v y).take 8, i ≠ j ∧
    ∃ x, x < 256 ∧ SpriteOpaqueAt v y i x ∧ SpriteOpaqueAt v y j x

/-! ### How an instruction ends -/

/-- The state `s` moved on by an instruction of `len` bytes and `n` cycles: nothing but PC and the cycle counter changes. -/
def past (s : State) (len n : Nat) : State := { s with pc := s.pc + BitVec.ofNat 16 len, cycles := s.cycles + n }

/-- The state `s` sent to `target` at a cost of `n` cycles. -/
def sentTo (s : State) (target : Word) (n : Nat) : State := { s with pc := target, cycles := s.cycles + n }

/-- `i` gives a next state in which A is `r`, F meets `P`, PC and the cycle counter move on, and every other field of the state, every
byte of memory among them, is as before. -/
def AccEnds (i : Instr) (s : State) (len n : Nat) (r : Byte) (P : Byte → Prop) : Prop :=
  ∃ f, P f ∧ exec i s = .next { past s len n with main := { s.main with a := r, f := f } }

/-- The same where the register is `q`. -/
def RegEnds (i : Instr) (s : State) (len n : Nat) (q : Reg8) (P : Byte → Byte → Prop) : Prop :=
  ∃ r f, P r f ∧ exec i s = .next { past s len n with main := { s.main with f := f }.set q r }

/-- The same where only F changes. -/
def FlagEnds (i : Instr) (s : State) (len n : Nat) (P : Byte → Prop) : Prop :=
  ∃ f, P f ∧ exec i s = .next { past s len n with main := { s.main with f := f } }

/-- The registers after a result `r` with flags `f`, copied to a register where the instruction names one. -/
def copied (m : RegSet) (copy : Option Reg8) (r f : Byte) : RegSet :=
  match copy with
  | none => { m with f := f }
  | some q => { m with f := f }.set q r

/-- A read-modify-write of the byte at `a`: there are a result and flags that `P` relates to the byte read, the result is stored at `a`
(`StoresByte`), F is replaced, and with `copy` a register takes the result too. -/
def MemEnds (i : Instr) (s : State) (a : Word) (len n : Nat) (copy : Option Reg8) (P : Byte → Byte → Byte → Prop) : Prop :=
  ∃ r f, P (s.read a) r f ∧ StoresByte (exec i s) s.mmu a r { past s len n with main := copied s.main copy r f }

/-- The same for a half of an index register. -/
def HalfEnds (i : Instr) (s : State) (len n : Nat) (x : Idx) (h : Half) (P : Byte → Byte → Prop) : Prop :=
  ∃ r f, P r f ∧ exec i s = .next ({ past s len n with main := { s.main with f := f } }.setHalf x h r)

/-- The register that an operand of `LD r,XYH` names (R179). -/
def plain : PlainReg → Reg8
  | .b => .b | .c => .c | .d => .d | .e => .e | .a => .a

/-- The address of an indexed operand (R124). -/
def indexed (s : State) (x : Idx) (d : Byte) : Word := s.getXY x + d.signExtend 16

/-- The end of one iteration of a repeating block instruction (R246): PC unchanged and 21 cycles while it repeats, else the next instruction
and 16 cycles. -/
def iterated (s : State) (again : Bool) : State := if again then sentTo s s.pc 21 else past s 2 16

/-- HL and DE stepped, BC decremented, F replaced: what a block transfer does to the registers (R245, R247). -/
def transferred (s : State) (step : Word) (f : Byte) : State :=
  (((s.setHl (s.hl + step)).setDe (s.de + step)).setBc (s.bc - 1)).setF f

/-- HL stepped, BC decremented, F replaced: a block search (R249, R251). -/
def searched (s : State) (step : Word) (f : Byte) : State := ((s.setHl (s.hl + step)).setBc (s.bc - 1)).setF f

/-- HL stepped, B decremented, F replaced: a block input or output (R433, R440). -/
def counted (s : State) (step : Word) (f : Byte) : State := ((s.setHl (s.hl + step)).setR .b (s.main.b - 1)).setF f

/-- The instruction is a repeating block instruction that goes round again (R246, R250, R434, R441). -/
def repeats (i : Instr) (s : State) : Bool :=
  match i with
  | .ldir | .lddr => s.bc != 1
  | .cpir | .cpdr => s.bc != 1 && s.main.a != s.read s.hl
  | .inir | .indr | .otir | .otdr => s.main.b != 1
  | _ => false

/-- The instruction sends PC to a target of its own: an unconditional jump, call, return or restart, or a conditional one that is taken
(R418). -/
def transfers (i : Instr) (s : State) : Bool :=
  match i with
  | .jpNn _ | .jrE _ | .jpHl | .jpIx | .jpIy | .callNn _ | .ret | .reti | .retn | .retnMirror _ | .rstP _ => true
  | .jpCcNn cc _ | .callCcNn cc _ | .retCc cc => condHolds cc s.main.f
  | .jrCE _ => flagC s.main.f
  | .jrNcE _ => !flagC s.main.f
  | .jrZE _ => flagZ s.main.f
  | .jrNzE _ => !flagZ s.main.f
  | .djnzE _ => s.main.b != 1
  | _ => false

end Sys2Proof.Safety
end

