-- ==== Sys2Proof/Certificates/Slice0/Obligations.lean ====
section
/-! DEFINITION. The statements for the provers, family by family in the order of spec/. Each docstring names the rules it formalises; the
terms are those of Sys2Proof/Safety.lean. -/

open Sys2Proof Sys2Proof.Machine Sys2Proof.Safety

/-! ### 8-bit loads (spec/40_load8.md) -/

/-- R161 to R164, R169 to R171, R179, R180: the loads of a register or of a half of IX or IY from a register, a half, an immediate and
memory. No flag changes and no memory is written: the next state is given whole. -/
def Obligations.ByteLoadsToRegisters : Prop :=
  ∀ (s : State) (r q : Reg8) (n d : Byte) (nn : Word) (pr : PlainReg) (h : Half) (src : IdxSrc),
    exec (.ldRR r q) s = .next { past s 1 4 with main := s.main.set r (s.main.get q) } ∧
    exec (.ldRN r n) s = .next { past s 2 7 with main := s.main.set r n } ∧
    exec (.ldRIndHl r) s = .next { past s 1 7 with main := s.main.set r (s.read s.hl) } ∧
    exec (.ldRIndIx r d) s = .next { past s 3 19 with main := s.main.set r (s.read (indexed s .ix d)) } ∧
    exec (.ldRIndIy r d) s = .next { past s 3 19 with main := s.main.set r (s.read (indexed s .iy d)) } ∧
    exec .ldAIndBc s = .next { past s 1 7 with main := { s.main with a := s.read s.bc } } ∧
    exec .ldAIndDe s = .next { past s 1 7 with main := { s.main with a := s.read s.de } } ∧
    exec (.ldAIndNn nn) s = .next { past s 3 13 with main := { s.main with a := s.read nn } } ∧
    exec (.ldIxHalfS h src) s = .next ((past s 2 8).setHalf .ix h (s.getIdxSrc .ix src)) ∧
    exec (.ldIyHalfS h src) s = .next ((past s 2 8).setHalf .iy h (s.getIdxSrc .iy src)) ∧
    exec (.ldRIxHalf pr h) s = .next { past s 2 8 with main := s.main.set (plain pr) (s.getHalf .ix h) } ∧
    exec (.ldRIyHalf pr h) s = .next { past s 2 8 with main := s.main.set (plain pr) (s.getHalf .iy h) } ∧
    exec (.ldIxHalfN h n) s = .next ((past s 3 11).setHalf .ix h n) ∧
    exec (.ldIyHalfN h n) s = .next ((past s 3 11).setHalf .iy h n)

/-- R175 to R178: the loads between A and I, R. `LD A,I` and `LD A,R` set S, Z, Y, X from the value, PV from IFF2, H and N to 0, and keep
C. -/
def Obligations.LoadsOfIAndR : Prop :=
  ∀ s : State,
    AccEnds .ldAI s 2 9 s.i (fun f => ResultFlags s.i f ∧ flagH f = false ∧ flagPV f = s.iff2 ∧ flagN f = false ∧
      flagC f = flagC s.main.f) ∧
    AccEnds .ldAR s 2 9 s.r (fun f => ResultFlags s.r f ∧ flagH f = false ∧ flagPV f = s.iff2 ∧ flagN f = false ∧
      flagC f = flagC s.main.f) ∧
    exec .ldIA s = .next { past s 2 9 with i := s.main.a } ∧
    exec .ldRA s = .next { past s 2 9 with r := s.main.a }

/-- R165 to R168, R172 to R174: the 8-bit stores. Each stores one byte at the address its operand names (`StoresByte`: the cell, every
other cell, and what a mapper register does; a fault where the store faults), and no register or flag changes. -/
def Obligations.ByteStores : Prop :=
  ∀ (s : State) (r : Reg8) (n d : Byte) (nn : Word),
    StoresByte (exec (.ldIndHlR r) s) s.mmu s.hl (s.main.get r) (past s 1 7) ∧
    StoresByte (exec (.ldIndIxR d r) s) s.mmu (indexed s .ix d) (s.main.get r) (past s 3 19) ∧
    StoresByte (exec (.ldIndIyR d r) s) s.mmu (indexed s .iy d) (s.main.get r) (past s 3 19) ∧
    StoresByte (exec (.ldIndHlN n) s) s.mmu s.hl n (past s 2 10) ∧
    StoresByte (exec (.ldIndIxN d n) s) s.mmu (indexed s .ix d) n (past s 4 19) ∧
    StoresByte (exec (.ldIndIyN d n) s) s.mmu (indexed s .iy d) n (past s 4 19) ∧
    StoresByte (exec .ldIndBcA s) s.mmu s.bc s.main.a (past s 1 7) ∧
    StoresByte (exec .ldIndDeA s) s.mmu s.de s.main.a (past s 1 7) ∧
    StoresByte (exec (.ldIndNnA nn) s) s.mmu nn s.main.a (past s 3 13)

/-! ### 16-bit loads and the stack (spec/41_load16.md) -/

/-- R200 to R204, R208, R209, R212, R213: the 16-bit loads of registers and the pops. The byte at the lower address is the low byte; a pop
adds 2 to SP, and only `POP AF` changes F. No memory is written. -/
def Obligations.WordLoadsToRegisters : Prop :=
  ∀ (s : State) (p : Pair) (q : QPair) (nn : Word),
    exec (.ldDdNn p nn) s = .next ((past s 3 10).setPair p nn) ∧
    exec (.ldIxNn nn) s = .next ((past s 4 14).setXY .ix nn) ∧
    exec (.ldIyNn nn) s = .next ((past s 4 14).setXY .iy nn) ∧
    exec (.ldHlIndNn nn) s = .next ((past s 3 16).setHl (wordOf (s.read (nn + 1)) (s.read nn))) ∧
    exec (.ldDdIndNn p nn) s = .next ((past s 4 20).setPair p (wordOf (s.read (nn + 1)) (s.read nn))) ∧
    exec (.ldIxIndNn nn) s = .next ((past s 4 20).setXY .ix (wordOf (s.read (nn + 1)) (s.read nn))) ∧
    exec (.ldIyIndNn nn) s = .next ((past s 4 20).setXY .iy (wordOf (s.read (nn + 1)) (s.read nn))) ∧
    exec .ldSpHl s = .next { past s 1 6 with sp := s.hl } ∧
    exec .ldSpIx s = .next { past s 2 10 with sp := s.getXY .ix } ∧
    exec .ldSpIy s = .next { past s 2 10 with sp := s.getXY .iy } ∧
    exec (.popQq q) s =
      .next ({ past s 1 10 with sp := s.sp + 2 }.setQPair q (wordOf (s.read (s.sp + 1)) (s.read s.sp))) ∧
    exec .popIx s = .next ({ past s 2 14 with sp := s.sp + 2 }.setXY .ix (wordOf (s.read (s.sp + 1)) (s.read s.sp))) ∧
    exec .popIy s = .next ({ past s 2 14 with sp := s.sp + 2 }.setXY .iy (wordOf (s.read (s.sp + 1)) (s.read s.sp)))

/-- R205 to R207, R210, R211: the 16-bit stores (low byte first) and the pushes (high byte at SP - 1 first, then the low byte at SP - 2;
SP is 2 lower). No flag changes. -/
def Obligations.WordStoresAndPushes : Prop :=
  ∀ (s : State) (p : Pair) (q : QPair) (nn : Word),
    StoresTwo (exec (.ldIndNnHl nn) s) s.mmu nn s.main.l (nn + 1) s.main.h (past s 3 16) ∧
    StoresTwo (exec (.ldIndNnDd p nn) s) s.mmu nn ((s.getPair p).extractLsb' 0 8) (nn + 1)
      ((s.getPair p).extractLsb' 8 8) (past s 4 20) ∧
    StoresTwo (exec (.ldIndNnIx nn) s) s.mmu nn s.ixl (nn + 1) s.ixh (past s 4 20) ∧
    StoresTwo (exec (.ldIndNnIy nn) s) s.mmu nn s.iyl (nn + 1) s.iyh (past s 4 20) ∧
    Pushes (exec (.pushQq q) s) s.mmu s.sp (s.getQPair q) { past s 1 11 with sp := s.sp - 2 } ∧
    Pushes (exec .pushIx s) s.mmu s.sp (s.getXY .ix) { past s 2 15 with sp := s.sp - 2 } ∧
    Pushes (exec .pushIy s) s.mmu s.sp (s.getXY .iy) { past s 2 15 with sp := s.sp - 2 }

/-- R22, R25, R126, R127: the register file. Writing a register, a pair or a half changes that one and reads back as written; F changes by
no register write but that of AF. Each of the operations that write registers is given whole, so that every other register, SP, PC, I, R,
the shadow set and memory are as before. -/
def Obligations.RegisterFileReadsBack : Prop :=
  ∀ (s : State) (v : Byte) (w : Word),
    let m := s.main
    let hi := w.extractLsb' 8 8
    let lo := w.extractLsb' 0 8
    (∀ r q : Reg8, (s.setR r v).getR q = if q = r then v else s.getR q) ∧
    (∀ p q : Pair, (s.setPair p w).getPair q = if q = p then w else s.getPair q) ∧
    (∀ p q : QPair, (s.setQPair p w).getQPair q = if q = p then w else s.getQPair q) ∧
    (∀ x y : Idx, (s.setXY x w).getXY y = if y = x then w else s.getXY y) ∧
    (∀ (x y : Idx) (h k : Half), (s.setHalf x h v).getHalf y k = if y = x ∧ k = h then v else s.getHalf y k) ∧
    (∀ r : Reg8, (s.setR r v).main.f = s.main.f) ∧ (∀ p : Pair, (s.setPair p w).main.f = s.main.f) ∧
    (∀ p : QPair, p ≠ .af → (s.setQPair p w).main.f = s.main.f ∧ (s.setQPair p w).main.a = s.main.a) ∧
    s.getPair .bc = wordOf (s.getR .b) (s.getR .c) ∧ s.getPair .de = wordOf (s.getR .d) (s.getR .e) ∧
    s.getPair .hl = wordOf (s.getR .h) (s.getR .l) ∧ s.getQPair .af = wordOf s.main.a s.main.f ∧
    (∀ r : Reg8, s.getR r = m.get r ∧ s.setR r v = { s with main := m.set r v }) ∧
    m.set .b v = { m with b := v } ∧ m.set .c v = { m with c := v } ∧ m.set .d v = { m with d := v } ∧
    m.set .e v = { m with e := v } ∧ m.set .h v = { m with h := v } ∧ m.set .l v = { m with l := v } ∧
    m.set .a v = { m with a := v } ∧ s.setA v = { s with main := { m with a := v } } ∧
    s.setF v = { s with main := { m with f := v } } ∧
    s.setPair .bc w = { s with main := { m with b := hi, c := lo } } ∧
    s.setPair .de w = { s with main := { m with d := hi, e := lo } } ∧
    s.setPair .hl w = { s with main := { m with h := hi, l := lo } } ∧ s.setPair .sp w = { s with sp := w } ∧
    s.setQPair .bc w = s.setPair .bc w ∧ s.setQPair .de w = s.setPair .de w ∧ s.setQPair .hl w = s.setPair .hl w ∧
    s.setQPair .af w = { s with main := { m with a := hi, f := lo } } ∧
    s.setBc w = s.setPair .bc w ∧ s.setDe w = s.setPair .de w ∧ s.setHl w = s.setPair .hl w ∧
    s.setXY .ix w = { s with ixh := hi, ixl := lo } ∧ s.setXY .iy w = { s with iyh := hi, iyl := lo } ∧
    s.setHalf .ix .hi v = { s with ixh := v } ∧ s.setHalf .ix .lo v = { s with ixl := v } ∧
    s.setHalf .iy .hi v = { s with iyh := v } ∧ s.setHalf .iy .lo v = { s with iyl := v }

/-! ### Exchanges and block instructions (spec/42_exchange_block.md) -/

/-- R240 to R244: the exchanges. Both reads of `EX (SP),HL` come before both writes, and SP is unchanged. -/
def Obligations.Exchanges : Prop :=
  ∀ s : State,
    exec .exDeHl s = .next { past s 1 4 with
      main := { s.main with d := s.main.h, e := s.main.l, h := s.main.d, l := s.main.e } } ∧
    exec .exAfAf s = .next { past s 1 4 with
      main := { s.main with a := s.shadow.a, f := s.shadow.f }
      shadow := { s.shadow with a := s.main.a, f := s.main.f } } ∧
    exec .exx s = .next { past s 1 4 with
      main := { s.shadow with a := s.main.a, f := s.main.f }
      shadow := { s.main with a := s.shadow.a, f := s.shadow.f } } ∧
    StoresTwo (exec .exIndSpHl s) s.mmu s.sp s.main.l (s.sp + 1) s.main.h { past s 1 19 with
      main := { s.main with h := s.read (s.sp + 1), l := s.read s.sp } } ∧
    StoresTwo (exec .exIndSpIx s) s.mmu s.sp s.ixl (s.sp + 1) s.ixh { past s 2 23 with
      ixh := s.read (s.sp + 1), ixl := s.read s.sp } ∧
    StoresTwo (exec .exIndSpIy s) s.mmu s.sp s.iyl (s.sp + 1) s.iyh { past s 2 23 with
      iyh := s.read (s.sp + 1), iyl := s.read s.sp }

/-- R245 to R248: the block transfers. One step moves one byte from HL to DE, steps HL and DE, decrements BC, and sets F by
`MoveFlags`; `LDIR` and `LDDR` leave PC where it is while BC is not 0 (21 cycles), else go on (16). -/
def Obligations.BlockTransfers : Prop :=
  ∀ s : State, ∃ f, MoveFlags (s.main.a + s.read s.hl) (s.bc - 1) s.main.f f ∧
    StoresByte (exec .ldi s) s.mmu s.de (s.read s.hl) (past (transferred s 1 f) 2 16) ∧
    StoresByte (exec .ldd s) s.mmu s.de (s.read s.hl) (past (transferred s (-1) f) 2 16) ∧
    StoresByte (exec .ldir s) s.mmu s.de (s.read s.hl) (iterated (transferred s 1 f) (s.bc ≠ 1)) ∧
    StoresByte (exec .lddr s) s.mmu s.de (s.read s.hl) (iterated (transferred s (-1) f) (s.bc ≠ 1))

/-- R249 to R252: the block searches. A is compared with the byte at HL, HL is stepped, BC decremented, F set by `SearchFlags`, and nothing is
stored; `CPIR` and `CPDR` repeat while BC is not 0 and there is no match. -/
def Obligations.BlockSearches : Prop :=
  ∀ s : State, ∃ f, SearchFlags s.main.a (s.read s.hl) (s.bc - 1) s.main.f f ∧
    exec .cpi s = .next (past (searched s 1 f) 2 16) ∧
    exec .cpd s = .next (past (searched s (-1) f) 2 16) ∧
    exec .cpir s = .next (iterated (searched s 1 f) (s.bc ≠ 1 ∧ s.main.a ≠ s.read s.hl)) ∧
    exec .cpdr s = .next (iterated (searched s (-1) f) (s.bc ≠ 1 ∧ s.main.a ≠ s.read s.hl))

/-! ### 8-bit arithmetic and logic (spec/43_alu8.md) -/

/-- R270, R275 to R277: `ADD` and `ADC` in all seven forms. A becomes the sum modulo 256, all eight flags are those of the sum in integers;
nothing else changes and no memory is written. -/
def Obligations.AdditionForms : Prop :=
  ∀ (s : State) (r : Reg8) (h : Half) (n d : Byte),
    let sum (i : Instr) (v : Byte) (c : Bool) (len cycles : Nat) : Prop :=
      AccEnds i s len cycles (s.main.a + v + BitVec.ofNat 8 c.toNat) (AddFlags s.main.a v c)
    let c := flagC s.main.f
    sum (.addAR r) (s.main.get r) false 1 4 ∧ sum (.addAN n) n false 2 7 ∧ sum .addAIndHl (s.read s.hl) false 1 7 ∧
    sum (.addAIndIx d) (s.read (indexed s .ix d)) false 3 19 ∧ sum (.addAIndIy d) (s.read (indexed s .iy d)) false 3 19 ∧
    sum (.addAIxHalf h) (s.getHalf .ix h) false 2 8 ∧ sum (.addAIyHalf h) (s.getHalf .iy h) false 2 8 ∧
    sum (.adcAR r) (s.main.get r) c 1 4 ∧ sum (.adcAN n) n c 2 7 ∧ sum .adcAIndHl (s.read s.hl) c 1 7 ∧
    sum (.adcAIndIx d) (s.read (indexed s .ix d)) c 3 19 ∧ sum (.adcAIndIy d) (s.read (indexed s .iy d)) c 3 19 ∧
    sum (.adcAIxHalf h) (s.getHalf .ix h) c 2 8 ∧ sum (.adcAIyHalf h) (s.getHalf .iy h) c 2 8

/-- R271, R275, R278, R279: `SUB` and `SBC` in all seven forms. -/
def Obligations.SubtractionForms : Prop :=
  ∀ (s : State) (r : Reg8) (h : Half) (n d : Byte),
    let diff (i : Instr) (v : Byte) (c : Bool) (len cycles : Nat) : Prop :=
      AccEnds i s len cycles (s.main.a - v - BitVec.ofNat 8 c.toNat) (SubFlags s.main.a v c)
    let c := flagC s.main.f
    diff (.subR r) (s.main.get r) false 1 4 ∧ diff (.subN n) n false 2 7 ∧ diff .subIndHl (s.read s.hl) false 1 7 ∧
    diff (.subIndIx d) (s.read (indexed s .ix d)) false 3 19 ∧ diff (.subIndIy d) (s.read (indexed s .iy d)) false 3 19 ∧
    diff (.subIxHalf h) (s.getHalf .ix h) false 2 8 ∧ diff (.subIyHalf h) (s.getHalf .iy h) false 2 8 ∧
    diff (.sbcAR r) (s.main.get r) c 1 4 ∧ diff (.sbcAN n) n c 2 7 ∧ diff .sbcAIndHl (s.read s.hl) c 1 7 ∧
    diff (.sbcAIndIx d) (s.read (indexed s .ix d)) c 3 19 ∧ diff (.sbcAIndIy d) (s.read (indexed s .iy d)) c 3 19 ∧
    diff (.sbcAIxHalf h) (s.getHalf .ix h) c 2 8 ∧ diff (.sbcAIyHalf h) (s.getHalf .iy h) c 2 8

/-- R272, R275, R280 to R282: `AND`, `XOR` and `OR` in all seven forms: PV is parity, C and N are 0, H is 1 for `AND` alone. -/
def Obligations.LogicForms : Prop :=
  ∀ (s : State) (r : Reg8) (h : Half) (n d : Byte),
    let ends (i : Instr) (v : Byte) (and : Bool) (len cycles : Nat) : Prop :=
      AccEnds i s len cycles v (ParityFlags v and false false)
    let a := s.main.a
    ends (.andR r) (a &&& s.main.get r) true 1 4 ∧ ends (.andN n) (a &&& n) true 2 7 ∧
    ends .andIndHl (a &&& s.read s.hl) true 1 7 ∧ ends (.andIndIx d) (a &&& s.read (indexed s .ix d)) true 3 19 ∧
    ends (.andIndIy d) (a &&& s.read (indexed s .iy d)) true 3 19 ∧ ends (.andIxHalf h) (a &&& s.getHalf .ix h) true 2 8 ∧
    ends (.andIyHalf h) (a &&& s.getHalf .iy h) true 2 8 ∧
    ends (.xorR r) (a ^^^ s.main.get r) false 1 4 ∧ ends (.xorN n) (a ^^^ n) false 2 7 ∧
    ends .xorIndHl (a ^^^ s.read s.hl) false 1 7 ∧ ends (.xorIndIx d) (a ^^^ s.read (indexed s .ix d)) false 3 19 ∧
    ends (.xorIndIy d) (a ^^^ s.read (indexed s .iy d)) false 3 19 ∧ ends (.xorIxHalf h) (a ^^^ s.getHalf .ix h) false 2 8 ∧
    ends (.xorIyHalf h) (a ^^^ s.getHalf .iy h) false 2 8 ∧
    ends (.orR r) (a ||| s.main.get r) false 1 4 ∧ ends (.orN n) (a ||| n) false 2 7 ∧
    ends .orIndHl (a ||| s.read s.hl) false 1 7 ∧ ends (.orIndIx d) (a ||| s.read (indexed s .ix d)) false 3 19 ∧
    ends (.orIndIy d) (a ||| s.read (indexed s .iy d)) false 3 19 ∧ ends (.orIxHalf h) (a ||| s.getHalf .ix h) false 2 8 ∧
    ends (.orIyHalf h) (a ||| s.getHalf .iy h) false 2 8

/-- R275, R283: `CP` in all seven forms: A is not written, the flags are those of the subtraction, but Y and X come from the operand. -/
def Obligations.CompareForms : Prop :=
  ∀ (s : State) (r : Reg8) (h : Half) (n d : Byte),
    let ends (i : Instr) (v : Byte) (len cycles : Nat) : Prop :=
      FlagEnds i s len cycles fun f => SubFlagsBut s.main.a v false f ∧ flagY f = v.getLsbD 5 ∧ flagX f = v.getLsbD 3
    ends (.cpR r) (s.main.get r) 1 4 ∧ ends (.cpN n) n 2 7 ∧ ends .cpIndHl (s.read s.hl) 1 7 ∧
    ends (.cpIndIx d) (s.read (indexed s .ix d)) 3 19 ∧ ends (.cpIndIy d) (s.read (indexed s .iy d)) 3 19 ∧
    ends (.cpIxHalf h) (s.getHalf .ix h) 2 8 ∧ ends (.cpIyHalf h) (s.getHalf .iy h) 2 8

/-- R273, R274, R284 to R291: the 8-bit increments and decrements of a register, a half and a byte of memory: C is unchanged. -/
def Obligations.ByteIncrementsAndDecrements : Prop :=
  ∀ (s : State) (r : Reg8) (h : Half) (d : Byte),
    let inc (v r' f : Byte) : Prop := r' = v + 1 ∧ IncFlags v s.main.f f
    let dec (v r' f : Byte) : Prop := r' = v - 1 ∧ DecFlags v s.main.f f
    RegEnds (.incR r) s 1 4 r (inc (s.main.get r)) ∧ RegEnds (.decR r) s 1 4 r (dec (s.main.get r)) ∧
    MemEnds .incIndHl s s.hl 1 11 none inc ∧ MemEnds .decIndHl s s.hl 1 11 none dec ∧
    MemEnds (.incIndIx d) s (indexed s .ix d) 3 23 none inc ∧ MemEnds (.decIndIx d) s (indexed s .ix d) 3 23 none dec ∧
    MemEnds (.incIndIy d) s (indexed s .iy d) 3 23 none inc ∧ MemEnds (.decIndIy d) s (indexed s .iy d) 3 23 none dec ∧
    HalfEnds (.incIxHalf h) s 2 8 .ix h (inc (s.getHalf .ix h)) ∧ HalfEnds (.decIxHalf h) s 2 8 .ix h (dec (s.getHalf .ix h)) ∧
    HalfEnds (.incIyHalf h) s 2 8 .iy h (inc (s.getHalf .iy h)) ∧ HalfEnds (.decIyHalf h) s 2 8 .iy h (dec (s.getHalf .iy h))

/-- R292: the properties of the ALU helpers. -/
def Obligations.AluHelperProperties : Prop :=
  ∀ (a b f : Byte) (c : Bool),
    (add8 a b false).res.toNat = (a.toNat + b.toNat) % 256 ∧
    ((sub8 a b false).res.toNat : Int) = ((a.toNat : Int) - b.toNat) % 256 ∧
    (sub8 a b false).res = (add8 a (~~~b) true).res ∧
    flagC (sub8 a b c).flags = !flagC (add8 a (~~~b) (!c)).flags ∧
    (sub8 a a false).res = 0 ∧ flagZ (sub8 a a false).flags = true ∧ flagC (sub8 a a false).flags = false ∧
    flagH (sub8 a a false).flags = false ∧ flagPV (sub8 a a false).flags = false ∧
    (AluOp.run .xor a a f).res = 0 ∧ (AluOp.run .xor a a f).flags = 0x44 ∧
    (dec8 (inc8 a f).res f).res = a ∧ (inc8 (dec8 a f).res f).res = a ∧
    flagC (inc8 a f).flags = flagC f ∧ flagC (dec8 a f).flags = flagC f

/-! ### General-purpose arithmetic and control (spec/44_gp_arith_control.md) -/

/-- R310: `DAA`, for every A and F: the correction is added or, after a subtraction (N = 1), subtracted. -/
def Obligations.DecimalAdjust : Prop :=
  ∀ s : State,
    let a := s.main.a.toNat
    let f := s.main.f
    let corr := (if flagH f ∨ 9 < a % 16 then 0x06 else 0) + (if flagC f ∨ 0x99 < a then 0x60 else 0)
    ∃ r : Byte, r.toNat = (if flagN f then a + 256 - corr else a + corr) % 256 ∧
      AccEnds .daa s 1 4 r (ParityFlags r (if flagN f then flagH f && decide (a % 16 < 6) else decide (9 < a % 16)) (flagN f)
        (flagC f || decide (0x99 < a)))

/-- R310: what `DAA` is for. After adding two packed BCD numbers (with a carry in) the adjusted A and C are their decimal sum; after
subtracting them (with a borrow in), their decimal difference. -/
def Obligations.DecimalAdjustIsDecimal : Prop :=
  ∀ (a b : Byte) (c : Bool), a.toNat % 16 ≤ 9 → a.toNat / 16 ≤ 9 → b.toNat % 16 ≤ 9 → b.toNat / 16 ≤ 9 →
    let decimal (v : Byte) : Int := 10 * (v.toNat / 16 : Nat) + (v.toNat % 16 : Nat)
    let sum := daa (add8 a b c).res (add8 a b c).flags
    let diff := daa (sub8 a b c).res (sub8 a b c).flags
    sum.res.toNat % 16 ≤ 9 ∧ sum.res.toNat / 16 ≤ 9 ∧
    decimal sum.res + 100 * (flagC sum.flags).toNat = decimal a + decimal b + c.toNat ∧
    diff.res.toNat % 16 ≤ 9 ∧ diff.res.toNat / 16 ≤ 9 ∧
    decimal diff.res - 100 * (flagC diff.flags).toNat = decimal a - decimal b - c.toNat

/-- R311 to R314: `CPL`, `NEG` and its mirrors, `CCF`, `SCF`. -/
def Obligations.AccumulatorAndFlagOperations : Prop :=
  ∀ (s : State) (y : BitVec 3),
    AccEnds .cpl s 1 4 (~~~s.main.a) (KeepsSZP (~~~s.main.a) true true (flagC s.main.f) s.main.f) ∧
    AccEnds .neg s 2 8 (0 - s.main.a) (SubFlags 0 s.main.a false) ∧
    AccEnds (.negMirror y) s 2 8 (0 - s.main.a) (SubFlags 0 s.main.a false) ∧
    FlagEnds .ccf s 1 4 (KeepsSZP s.main.a (flagC s.main.f) false (!flagC s.main.f) s.main.f) ∧
    FlagEnds .scf s 1 4 (KeepsSZP s.main.a false false true s.main.f)

/-- R315 to R321: `NOP`, `HALT`, `DI`, `EI`, `IM 0`, `IM 1`, `IM 2` and the mirrors of the last three. No flag changes. -/
def Obligations.CpuControl : Prop :=
  ∀ (s : State) (y : BitVec 3),
    exec .nop s = .next (past s 1 4) ∧
    exec .halt s = .next { past s 1 4 with halted := true } ∧
    exec .di s = .next { past s 1 4 with iff1 := false, iff2 := false } ∧
    exec .ei s = .next { past s 1 4 with iff1 := true, iff2 := true, postEi := true } ∧
    exec .im0 s = .next { past s 2 8 with im := .im0 } ∧ exec (.im0Mirror y) s = .next { past s 2 8 with im := .im0 } ∧
    exec .im1 s = .next { past s 2 8 with im := .im1 } ∧ exec .im1Mirror s = .next { past s 2 8 with im := .im1 } ∧
    exec .im2 s = .next { past s 2 8 with im := .im2 } ∧ exec .im2Mirror s = .next { past s 2 8 with im := .im2 }

/-! ### 16-bit arithmetic (spec/45_alu16.md) -/

/-- R330 to R338: the 16-bit additions, subtractions, increments and decrements. `ADD` keeps S, Z and PV; `ADC` and `SBC` set all eight flags,
Z on all 16 bits; Y and X are bits 13 and 11 of the result, H the carry or borrow at bit 12; an increment or decrement changes no flag, not
even on wrap. -/
def Obligations.WordArithmetic : Prop :=
  ∀ (s : State) (p : Pair) (q : IdxPair),
    let c := flagC s.main.f
    let v := s.getPair p
    let adds (a b : Word) (f : Byte) : Prop := KeepsSZP (hiByte (a + b)) (decide (4096 ≤ a.toNat % 4096 + b.toNat % 4096)) false
      (decide (65536 ≤ a.toNat + b.toNat)) s.main.f f
    (∃ f, adds s.hl v f ∧ exec (.addHlSs p) s = .next ({ past s 1 11 with main := { s.main with f := f } }.setHl (s.hl + v))) ∧
    (∃ f, adds (s.getXY .ix) (s.getIdxPair .ix q) f ∧ exec (.addIxPp q) s =
      .next ({ past s 2 15 with main := { s.main with f := f } }.setXY .ix (s.getXY .ix + s.getIdxPair .ix q))) ∧
    (∃ f, adds (s.getXY .iy) (s.getIdxPair .iy q) f ∧ exec (.addIyPp q) s =
      .next ({ past s 2 15 with main := { s.main with f := f } }.setXY .iy (s.getXY .iy + s.getIdxPair .iy q))) ∧
    (∃ f, WideFlags (s.hl + v + BitVec.ofNat 16 c.toNat) (decide (4096 ≤ s.hl.toNat % 4096 + v.toNat % 4096 + c.toNat)) false
        (decide (65536 ≤ s.hl.toNat + v.toNat + c.toNat)) (Overflows16 (s.hl.toInt + v.toInt + c.toNat)) f ∧
      exec (.adcHlSs p) s =
        .next ({ past s 2 15 with main := { s.main with f := f } }.setHl (s.hl + v + BitVec.ofNat 16 c.toNat))) ∧
    (∃ f, WideFlags (s.hl - v - BitVec.ofNat 16 c.toNat) (decide (s.hl.toNat % 4096 < v.toNat % 4096 + c.toNat)) true
        (decide (s.hl.toNat < v.toNat + c.toNat)) (Overflows16 (s.hl.toInt - v.toInt - c.toNat)) f ∧
      exec (.sbcHlSs p) s =
        .next ({ past s 2 15 with main := { s.main with f := f } }.setHl (s.hl - v - BitVec.ofNat 16 c.toNat))) ∧
    exec (.incSs p) s = .next ((past s 1 6).setPair p (s.getPair p + 1)) ∧
    exec (.decSs p) s = .next ((past s 1 6).setPair p (s.getPair p - 1)) ∧
    exec .incIx s = .next ((past s 2 10).setXY .ix (s.getXY .ix + 1)) ∧
    exec .decIx s = .next ((past s 2 10).setXY .ix (s.getXY .ix - 1)) ∧
    exec .incIy s = .next ((past s 2 10).setXY .iy (s.getXY .iy + 1)) ∧
    exec .decIy s = .next ((past s 2 10).setXY .iy (s.getXY .iy - 1))

/-! ### Rotates and shifts (spec/46_rotate_shift.md) -/

/-- R350 to R362: the accumulator rotates, which keep S, Z and PV, and the eight CB-table rotates and shifts of a register. -/
def Obligations.RegisterRotates : Prop :=
  ∀ (s : State) (r : Reg8),
    let acc (i : Instr) (op : RotOp) : Prop :=
      ∃ v : Byte, v.toNat = rotated op s.main.a.toNat (flagC s.main.f).toNat ∧
        AccEnds i s 1 4 v (KeepsSZP v false false (movedOut op s.main.a) s.main.f)
    let ends (i : Instr) (op : RotOp) : Prop := RegEnds i s 2 8 r (Rotated op (s.main.get r) s.main.f)
    acc .rlca .rlc ∧ acc .rla .rl ∧ acc .rrca .rrc ∧ acc .rra .rr ∧
    ends (.rlcR r) .rlc ∧ ends (.rrcR r) .rrc ∧ ends (.rlR r) .rl ∧ ends (.rrR r) .rr ∧
    ends (.slaR r) .sla ∧ ends (.sraR r) .sra ∧ ends (.sllR r) .sll ∧ ends (.srlR r) .srl

/-- R354 to R362, R365: the eight rotates and shifts of a byte of memory, at HL and at the indexed addresses, and the undocumented forms
that copy the result to a register. The byte is read before it is written, and the flags are those of the result even where the write
is ignored. -/
def Obligations.MemoryRotates : Prop :=
  ∀ (s : State) (r : Reg8) (d : Byte),
    let rot (op : RotOp) (v r' f : Byte) : Prop := Rotated op v s.main.f r' f
    let x := indexed s .ix d
    let y := indexed s .iy d
    MemEnds .rlcIndHl s s.hl 2 15 none (rot .rlc) ∧ MemEnds (.rlcIndIx d) s x 4 23 none (rot .rlc) ∧
    MemEnds (.rlcIndIy d) s y 4 23 none (rot .rlc) ∧ MemEnds (.rlcIndIxR d r) s x 4 23 (some r) (rot .rlc) ∧
    MemEnds (.rlcIndIyR d r) s y 4 23 (some r) (rot .rlc) ∧
    MemEnds .rrcIndHl s s.hl 2 15 none (rot .rrc) ∧ MemEnds (.rrcIndIx d) s x 4 23 none (rot .rrc) ∧
    MemEnds (.rrcIndIy d) s y 4 23 none (rot .rrc) ∧ MemEnds (.rrcIndIxR d r) s x 4 23 (some r) (rot .rrc) ∧
    MemEnds (.rrcIndIyR d r) s y 4 23 (some r) (rot .rrc) ∧
    MemEnds .rlIndHl s s.hl 2 15 none (rot .rl) ∧ MemEnds (.rlIndIx d) s x 4 23 none (rot .rl) ∧
    MemEnds (.rlIndIy d) s y 4 23 none (rot .rl) ∧ MemEnds (.rlIndIxR d r) s x 4 23 (some r) (rot .rl) ∧
    MemEnds (.rlIndIyR d r) s y 4 23 (some r) (rot .rl) ∧
    MemEnds .rrIndHl s s.hl 2 15 none (rot .rr) ∧ MemEnds (.rrIndIx d) s x 4 23 none (rot .rr) ∧
    MemEnds (.rrIndIy d) s y 4 23 none (rot .rr) ∧ MemEnds (.rrIndIxR d r) s x 4 23 (some r) (rot .rr) ∧
    MemEnds (.rrIndIyR d r) s y 4 23 (some r) (rot .rr) ∧
    MemEnds .slaIndHl s s.hl 2 15 none (rot .sla) ∧ MemEnds (.slaIndIx d) s x 4 23 none (rot .sla) ∧
    MemEnds (.slaIndIy d) s y 4 23 none (rot .sla) ∧ MemEnds (.slaIndIxR d r) s x 4 23 (some r) (rot .sla) ∧
    MemEnds (.slaIndIyR d r) s y 4 23 (some r) (rot .sla) ∧
    MemEnds .sraIndHl s s.hl 2 15 none (rot .sra) ∧ MemEnds (.sraIndIx d) s x 4 23 none (rot .sra) ∧
    MemEnds (.sraIndIy d) s y 4 23 none (rot .sra) ∧ MemEnds (.sraIndIxR d r) s x 4 23 (some r) (rot .sra) ∧
    MemEnds (.sraIndIyR d r) s y 4 23 (some r) (rot .sra) ∧
    MemEnds .sllIndHl s s.hl 2 15 none (rot .sll) ∧ MemEnds (.sllIndIx d) s x 4 23 none (rot .sll) ∧
    MemEnds (.sllIndIy d) s y 4 23 none (rot .sll) ∧ MemEnds (.sllIndIxR d r) s x 4 23 (some r) (rot .sll) ∧
    MemEnds (.sllIndIyR d r) s y 4 23 (some r) (rot .sll) ∧
    MemEnds .srlIndHl s s.hl 2 15 none (rot .srl) ∧ MemEnds (.srlIndIx d) s x 4 23 none (rot .srl) ∧
    MemEnds (.srlIndIy d) s y 4 23 none (rot .srl) ∧ MemEnds (.srlIndIxR d r) s x 4 23 (some r) (rot .srl) ∧
    MemEnds (.srlIndIyR d r) s y 4 23 (some r) (rot .srl)

/-- R363, R364: `RLD` and `RRD` rotate three digits through A and the byte at HL; the flags are those of the new A and C is kept. -/
def Obligations.DigitRotates : Prop :=
  ∀ s : State,
    let a := s.main.a.toNat
    let v := (s.read s.hl).toNat
    let ends (i : Instr) (newA newV : Nat) : Prop :=
      ∃ ra r f : Byte, ra.toNat = newA ∧ r.toNat = newV ∧ ParityFlags ra false false (flagC s.main.f) f ∧
        StoresByte (exec i s) s.mmu s.hl r { past s 2 18 with main := { s.main with a := ra, f := f } }
    ends .rld (a / 16 * 16 + v / 16) (v % 16 * 16 + a % 16) ∧
    ends .rrd (a / 16 * 16 + v % 16) (a % 16 * 16 + v / 16)

/-! ### Bits (spec/47_bit.md) -/

/-- R380 to R382, R390: `BIT` in its forms. Nothing is stored. Y and X come from the register, from the high byte of the indexed address, or,
for `BIT b,(HL)`, from a free value (log entry 6), whatever it is. -/
def Obligations.BitTests : Prop :=
  ∀ (s : State) (b : BitVec 3) (r : Reg8) (d : Byte),
    let ix (i : Instr) : Prop := FlagEnds i s 4 20
      (BitFlags b (s.read (indexed s .ix d)) ((indexed s .ix d).extractLsb' 8 8) s.main.f)
    let iy (i : Instr) : Prop := FlagEnds i s 4 20
      (BitFlags b (s.read (indexed s .iy d)) ((indexed s .iy d).extractLsb' 8 8) s.main.f)
    FlagEnds (.bitBR b r) s 2 8 (BitFlags b (s.main.get r) (s.main.get r) s.main.f) ∧
    ix (.bitBIndIx b d) ∧ ix (.bitBIndIxAlias b d r) ∧ iy (.bitBIndIy b d) ∧ iy (.bitBIndIyAlias b d r) ∧
    (∃ u f, BitFlags b (s.read s.hl) u s.main.f f ∧
      exec (.bitBIndHl b) s = .next { past s 2 12 with main := { s.main with f := f }, freeDraws := s.freeDraws + 1 })

/-- R383 to R389: `SET` and `RES` in their forms change one bit and no flag. -/
def Obligations.BitSetsAndResets : Prop :=
  ∀ (s : State) (b : BitVec 3) (r : Reg8) (d : Byte),
    let made (x : Bool) (v r' f : Byte) : Prop := BitMade b x v r' ∧ f = s.main.f
    let x := indexed s .ix d
    let y := indexed s .iy d
    RegEnds (.setBR b r) s 2 8 r (made true (s.main.get r)) ∧ RegEnds (.resBR b r) s 2 8 r (made false (s.main.get r)) ∧
    MemEnds (.setBIndHl b) s s.hl 2 15 none (made true) ∧ MemEnds (.resBIndHl b) s s.hl 2 15 none (made false) ∧
    MemEnds (.setBIndIx b d) s x 4 23 none (made true) ∧ MemEnds (.resBIndIx b d) s x 4 23 none (made false) ∧
    MemEnds (.setBIndIy b d) s y 4 23 none (made true) ∧ MemEnds (.resBIndIy b d) s y 4 23 none (made false) ∧
    MemEnds (.setBIndIxR b d r) s x 4 23 (some r) (made true) ∧ MemEnds (.resBIndIxR b d r) s x 4 23 (some r) (made false) ∧
    MemEnds (.setBIndIyR b d r) s y 4 23 (some r) (made true) ∧ MemEnds (.resBIndIyR b d r) s y 4 23 (some r) (made false)

/-! ### Jumps, calls and returns (spec/48_jump_call.md) -/

/-- R400: the eight conditions. -/
def Obligations.ConditionCodes : Prop :=
  ∀ f : Byte,
    (condHolds .nz f = true ↔ f.getLsbD 6 = false) ∧ (condHolds .z f = true ↔ f.getLsbD 6 = true) ∧
    (condHolds .nc f = true ↔ f.getLsbD 0 = false) ∧ (condHolds .c f = true ↔ f.getLsbD 0 = true) ∧
    (condHolds .po f = true ↔ f.getLsbD 2 = false) ∧ (condHolds .pe f = true ↔ f.getLsbD 2 = true) ∧
    (condHolds .p f = true ↔ f.getLsbD 7 = false) ∧ (condHolds .m f = true ↔ f.getLsbD 7 = true)

/-- R401 to R410: the jumps. Nothing but PC, the cycle counter and, for `DJNZ`, B changes; `JR NC` jumps exactly when C is clear. -/
def Obligations.Jumps : Prop :=
  ∀ (s : State) (cc : Cond) (nn : Word) (e : Byte),
    let rel := s.pc + 2 + e.signExtend 16
    let jr (taken : Bool) : Result := if taken then .next (sentTo s rel 12) else .next (past s 2 7)
    exec (.jpNn nn) s = .next (sentTo s nn 10) ∧
    exec (.jpCcNn cc nn) s = (if condHolds cc s.main.f then .next (sentTo s nn 10) else .next (past s 3 10)) ∧
    exec (.jrE e) s = .next (sentTo s rel 12) ∧
    exec (.jrCE e) s = jr (flagC s.main.f) ∧ exec (.jrNcE e) s = jr (!flagC s.main.f) ∧
    exec (.jrZE e) s = jr (flagZ s.main.f) ∧ exec (.jrNzE e) s = jr (!flagZ s.main.f) ∧
    exec (.djnzE e) s = (if s.main.b = 1 then .next { past s 2 8 with main := { s.main with b := 0 } }
      else .next { sentTo s rel 13 with main := { s.main with b := s.main.b - 1 } }) ∧
    exec .jpHl s = .next (sentTo s s.hl 4) ∧ exec .jpIx s = .next (sentTo s (s.getXY .ix) 8) ∧
    exec .jpIy s = .next (sentTo s (s.getXY .iy) 8)

/-- R411 to R417: calls and restarts push the address of the next instruction; returns pop PC; `RETI`, `RETN` and the mirrors of `RETN` also
copy IFF2 to IFF1. -/
def Obligations.CallsAndReturns : Prop :=
  ∀ (s : State) (cc : Cond) (nn : Word) (t y : BitVec 3),
    let back (n : Nat) : State := { sentTo s (wordOf (s.read (s.sp + 1)) (s.read s.sp)) n with sp := s.sp + 2 }
    Pushes (exec (.callNn nn) s) s.mmu s.sp (s.pc + 3) { sentTo s nn 17 with sp := s.sp - 2 } ∧
    (condHolds cc s.main.f = true →
      Pushes (exec (.callCcNn cc nn) s) s.mmu s.sp (s.pc + 3) { sentTo s nn 17 with sp := s.sp - 2 } ∧
      exec (.retCc cc) s = .next (back 11)) ∧
    (condHolds cc s.main.f = false →
      exec (.callCcNn cc nn) s = .next (past s 3 10) ∧ exec (.retCc cc) s = .next (past s 1 5)) ∧
    Pushes (exec (.rstP t) s) s.mmu s.sp (s.pc + 1) { sentTo s (BitVec.ofNat 16 (8 * t.toNat)) 11 with sp := s.sp - 2 } ∧
    exec .ret s = .next (back 10) ∧
    exec .reti s = .next { back 14 with iff1 := s.iff2 } ∧ exec .retn s = .next { back 14 with iff1 := s.iff2 } ∧
    exec (.retnMirror y) s = .next { back 14 with iff1 := s.iff2 }

/-! ### Input and output (spec/49_io.md) -/

/-- R430 to R432, R437 to R439: port input and output. The port is the immediate or C; what a port does is `portRead` and `portWrite`
(`PortMap`); `IN r,(C)` and `IN (C)` set the flags of the byte and keep C. No memory is written. -/
def Obligations.PortInstructions : Prop :=
  ∀ (s : State) (r : Reg8) (n : Byte),
    let v := (s.portRead s.main.c).1
    let t := (s.portRead s.main.c).2
    exec (.inAPortN n) s = .next { past (s.portRead n).2 2 11 with main := { s.main with a := (s.portRead n).1 } } ∧
    (∃ f, ParityFlags v false false (flagC s.main.f) f ∧
      exec (.inRPortC r) s = .next { past t 2 12 with main := { s.main with f := f }.set r v } ∧
      exec .inPortC s = .next { past t 2 12 with main := { s.main with f := f } }) ∧
    exec (.outPortNA n) s = .next (past (s.portWrite n s.main.a) 2 11) ∧
    exec (.outPortCR r) s = .next (past (s.portWrite s.main.c (s.main.get r)) 2 12) ∧
    exec .outPortCZero s = .next (past (s.portWrite s.main.c 0) 2 12)

/-- R433 to R436, R445: the block inputs. One step reads the port C once, stores the byte at HL, steps HL and decrements B; `INIR` and `INDR`
repeat while B is not 0. -/
def Obligations.BlockInputs : Prop :=
  ∀ s : State,
    let v := (s.portRead s.main.c).1
    let t := (s.portRead s.main.c).2
    (∃ f, IoFlags v (v.toNat + (s.main.c + 1).toNat) (s.main.b - 1) f ∧
      StoresByte (exec .ini s) s.mmu s.hl v (past (counted t 1 f) 2 16) ∧
      StoresByte (exec .inir s) s.mmu s.hl v (iterated (counted t 1 f) (s.main.b ≠ 1))) ∧
    (∃ f, IoFlags v (v.toNat + (s.main.c - 1).toNat) (s.main.b - 1) f ∧
      StoresByte (exec .ind s) s.mmu s.hl v (past (counted t (-1) f) 2 16) ∧
      StoresByte (exec .indr s) s.mmu s.hl v (iterated (counted t (-1) f) (s.main.b ≠ 1)))

/-- R440 to R443, R445: the block outputs. One step writes the byte at HL to the port C once, decrements B and steps HL; `k` of the flags
uses L after the step; `OTIR` and `OTDR` repeat while B is not 0. No memory is written. -/
def Obligations.BlockOutputs : Prop :=
  ∀ s : State,
    let v := s.read s.hl
    let t := s.portWrite s.main.c v
    (∃ f, IoFlags v (v.toNat + (s.main.l + 1).toNat) (s.main.b - 1) f ∧
      exec .outi s = .next (past (counted t 1 f) 2 16) ∧
      exec .otir s = .next (iterated (counted t 1 f) (s.main.b ≠ 1))) ∧
    (∃ f, IoFlags v (v.toNat + (s.main.l - 1).toNat) (s.main.b - 1) f ∧
      exec .outd s = .next (past (counted t (-1) f) 2 16) ∧
      exec .otdr s = .next (iterated (counted t (-1) f) (s.main.b ≠ 1)))

/-! ### Encodings (spec/30_encoding.md) -/

/-- R120 to R137, R142: decoding an encoding. The bytes that encode a well-formed instruction, at every value of its operands, decode to that
instruction in the table its first bytes select, whatever bytes come after them. -/
def Obligations.DecodeInvertsEncode : Prop :=
  ∀ i : Instr, i.wf = true → ∀ b0 b1 b2 b3 : Byte, encode i <+: [b0, b1, b2, b3] →
    decode b0 b1 b2 b3 = .instr (tableAt b0 b1) i

/-- R121, R125, R135, R142: encoding what was decoded. Whatever four bytes decode to is well formed, stands in the table the first bytes
select, and encodes to the first of those bytes, one to four of them: no bit of an encoding is dropped. -/
def Obligations.EncodeInvertsDecode : Prop :=
  ∀ (b0 b1 b2 b3 : Byte) (t : OpTable) (i : Instr), decode b0 b1 b2 b3 = .instr t i →
    i.wf = true ∧ t = tableAt b0 b1 ∧ encode i <+: [b0, b1, b2, b3] ∧ 1 ≤ i.length ∧ i.length ≤ 4

/-- Words written out bit by bit from the encodings of spec/opcode_table.json, one for each family. -/
def Obligations.DecodedWords : Prop :=
  ∀ b3 : Byte,
    decode 0b00111110 0x12 b3 b3 = .instr .main (.ldRN .a 0x12) ∧
    decode 0b00010001 0x34 0x12 b3 = .instr .main (.ldDdNn .de 0x1234) ∧
    decode 0b11101101 0b10110000 b3 b3 = .instr .ed .ldir ∧
    decode 0b10101111 b3 b3 b3 = .instr .main (.xorR .a) ∧
    decode 0b11101101 0b01011110 b3 b3 = .instr .ed .im2 ∧
    decode 0b11101101 0b01110010 b3 b3 = .instr .ed (.sbcHlSs .sp) ∧
    decode 0b11011101 0b11001011 0xFE 0b00000110 = .instr .ddcb (.rlcIndIx 0xFE) ∧
    decode 0b11001011 0b11001011 b3 b3 = .instr .cb (.setBR 1 .e) ∧
    decode 0b11011010 0xCD 0xAB b3 = .instr .main (.jpCcNn .c 0xABCD) ∧
    decode 0b11101101 0b01111000 b3 b3 = .instr .ed (.inRPortC .a) ∧
    decode 0b11111101 0b00110110 0x05 0x99 = .instr .fd (.ldIndIyN 0x05 0x99)

/-- R134 to R138, R140: the unset entries. A sequence is rejected exactly where an ED, DD or FD prefix is followed by a byte whose entry is
unset (another prefix among them, but 0xCB after 0xDD and 0xFD), and then by that table and byte; 78 ED entries and 85 DD and FD entries are
populated. R48, R139: the seven tables as data. Whatever decodes has the entry of its table and opcode byte, whatever the operand bytes, each
table has as many entries as R135 says, and the entries that R139 lists, no others, are flagged undocumented. -/
def Obligations.UnsetEntries : Prop :=
  (∀ (b0 b1 b2 b3 : Byte) (t : OpTable) (op : Byte), decode b0 b1 b2 b3 = .unset t op ↔
    op = b1 ∧ ((b0 = 0xED ∧ t = .ed ∧ edPopulated b1 = false) ∨
      (b0 = 0xDD ∧ t = .dd ∧ b1 ≠ 0xCB ∧ b1 ∉ xyPopulated) ∨ (b0 = 0xFD ∧ t = .fd ∧ b1 ≠ 0xCB ∧ b1 ∉ xyPopulated))) ∧
  ((List.range 256).filter fun k => edPopulated (BitVec.ofNat 8 k)).length = 78 ∧
  xyPopulated.Nodup ∧ xyPopulated.length = 85 ∧
  (∀ (b0 b1 b2 b3 : Byte) (t : OpTable) (i : Instr), decode b0 b1 b2 b3 = .instr t i →
    t.entry (opcodeByte t b0 b1 b3) = some (i.entry t)) ∧
  (∀ t : OpTable, ((List.range 256).filter fun k => (t.entry (BitVec.ofNat 8 k)).isSome).length = populatedCount t) ∧
  (∀ (t : OpTable) (op : Byte) (e : OpEntry), t.entry op = some e → e.undocumented = undocumentedAt t op)

/-! ### The step (spec/60_exceptions.md) -/

/-- R470, R471: a step runs the decoded instruction. Where no interrupt is accepted and the CPU is not halted, a step clears `postEI`, advances
R by the opcode fetches (1 for the main table, else 2), executes the instruction that the bytes at PC decode to, and lets the driver
advance the VDP by the cycles it took. R460: where those bytes are an unset entry the step is that fault. -/
def Obligations.StepRunsTheDecodedInstruction : Prop :=
  ∀ s : State, Running s →
    (∀ (t : OpTable) (i : Instr), fetched s = .instr t i →
      step s = thenAdvance s.cycles
        (exec i { s with postEi := false, r := refreshed s.r (if t = .main then 1 else 2) })) ∧
    (∀ (t : OpTable) (op : Byte), fetched s = .unset t op → step s = .fault (.unimplementedOpcode t op))

/-- R17, R471, R604: one step is one turn of one agent. The driver's turn is a CPU step followed by the advance of the VDP; the mixer's turn
changes the PSG and appends a sample; the host's turns set the NMI request or the joypad bytes, take the frame or the oldest samples, or
tear the machine down, which leaves nothing of the four blocks, the FIFO and the buffers and constructs the next machine. The model's choices:
the list of turns (log entry 4); that a host turn sets JOYPAD_B (log entry 5); that samples are appended to a list (log entry 15); that taking
the frame clears `frameDone`, that taking n samples drops the n oldest, and what a teardown keeps of the model's own two fields (log entry 26). -/
def Obligations.TurnsOfTheAgents : Prop :=
  ∀ (s : State) (rest : List Turn),
    (s.schedule = [] → step s = thenAdvance s.cycles s.cpuStep) ∧
    (s.schedule = .driver :: rest → step s = thenAdvance s.cycles { s with schedule := rest }.cpuStep) ∧
    (s.schedule = .mixer :: rest → step s = .next { s with
      schedule := rest
      psg := s.psg.mixOne.2
      outputs := { s.outputs with audio := s.outputs.audio ++ [s.psg.mixOne.1] } }) ∧
    (s.schedule = .raiseNmi :: rest → step s = .next { s with schedule := rest, pendingNmi := true }) ∧
    (∀ v, s.schedule = .setButtons v :: rest →
      step s = .next { s with schedule := rest, inputs := { s.inputs with buttons := v } }) ∧
    (∀ v, s.schedule = .setJoypadB v :: rest →
      step s = .next { s with schedule := rest, inputs := { s.inputs with joypadB := v } }) ∧
    (s.schedule = .takeFrame :: rest →
      step s = .next { s with schedule := rest, outputs := { s.outputs with frameDone := false } }) ∧
    (∀ n, s.schedule = .takeSamples n :: rest →
      step s = .next { s with schedule := rest, outputs := { s.outputs with audio := s.outputs.audio.drop n } }) ∧
    (∀ p, s.schedule = .teardown p :: rest →
      step s = .next { State.resetWith p with schedule := rest, freeDraws := s.freeDraws })

/-- R474: the acceptance of a non-maskable interrupt. PC is pushed, IFF1 is cleared and IFF2 kept, the CPU leaves the halted state and goes to
0x0066; a pending maskable request stays. -/
def Obligations.NmiAcceptance : Prop :=
  ∀ s : State, s.pendingNmi = true →
    Pushes s.cpuStep s.mmu s.sp s.pc { s with
      pendingNmi := false, halted := false, iff1 := false, postEi := false, sp := s.sp - 2, pc := 0x0066,
      cycles := s.cycles + 11, r := refreshed s.r 1 }

/-- R475: the acceptance of a maskable interrupt. PC is pushed, both enables are cleared, the CPU leaves the halted state and goes to 0x0038 in
modes 0 and 1 (13 cycles), in mode 2 to the address in the table at I and 0xFF, read after the push (19 cycles). -/
def Obligations.IntAcceptance : Prop :=
  ∀ s : State, s.pendingNmi = false → IntReady s →
    let hi := s.pc.extractLsb' 8 8
    let lo := s.pc.extractLsb' 0 8
    (StoreFaults s.mmu (s.sp - 1) hi → s.cpuStep = .fault (.unsupportedMapperControl hi)) ∧
    (¬ StoreFaults s.mmu (s.sp - 1) hi → StoreFaults s.mmu (s.sp - 2) lo → s.cpuStep = .fault (.unsupportedMapperControl lo)) ∧
    (¬ StoreFaults s.mmu (s.sp - 1) hi → ¬ StoreFaults s.mmu (s.sp - 2) lo →
      ∃ m1 m2, StoreEffect s.mmu m1 (s.sp - 1) hi ∧ StoreEffect m1 m2 (s.sp - 2) lo ∧
        s.cpuStep = .next { s with
          pendingInt := false, halted := false, iff1 := false, iff2 := false, postEi := false, sp := s.sp - 2, mmu := m2
          pc := if s.im = .im2 then wordOf (m2.read (wordOf s.i 0xFF + 1)) (m2.read (wordOf s.i 0xFF)) else 0x0038
          cycles := s.cycles + (if s.im = .im2 then 19 else 13)
          r := refreshed s.r 1 })

/-- R45, R473, R476, R484, R599: the halted state. A halted CPU with no interrupt to accept adds 4 cycles and 1 to R and changes nothing else,
a request that is masked or suppressed stays pending, and with IFF1 = 0 and no NMI from the host it stays so for any number of steps of the driver
(the empty list of turns is the model's choice, log entry 4). After `n` such steps everything is as before but the cycle counter, R, `postEI`
and what the advance of the VDP changes: every register of both sets, IX, IY, SP, PC, I, the interrupt enables and mode, the MMU and the PSG. -/
def Obligations.HaltedCpuIdles : Prop :=
  (∀ s : State, s.halted = true → s.pendingNmi = false → ¬ IntReady s →
    s.cpuStep = .next { s with postEi := false, cycles := s.cycles + 4, r := refreshed s.r 1 }) ∧
  (∀ (n : Nat) (s : State), s.halted = true → s.pendingNmi = false → s.iff1 = false → s.schedule = [] →
    ∃ t, RunsTo n s t ∧ t.halted = true ∧ t.iff1 = false ∧ t.vdp.reg = s.vdp.reg ∧ t.vdp.vram = s.vdp.vram ∧ t.vdp.cram = s.vdp.cram ∧
      t = { s with
        cycles := s.cycles + 4 * n, r := refreshed s.r n
        postEi := t.postEi, vdp := t.vdp, pendingInt := t.pendingInt, outputs := t.outputs, freeDraws := t.freeDraws })

/-- R460, R461, R464, R465, R470, R600: how a CPU step and a step end. A CPU step that completes takes 4 to 23 cycles, and an instruction the
cost its table entry has: the base cost, or the cost of a branch that is taken and of an iteration that repeats. A step is never refused,
and faults only on an unset entry at PC or on a control byte with an unsupported bit under the SEGA mapper. -/
def Obligations.StepOutcomes : Prop :=
  ∀ s : State,
    (∀ t, s.cpuStep = .next t → s.cycles + 4 ≤ t.cycles ∧ t.cycles ≤ s.cycles + 23) ∧
    (∀ (i : Instr) (t : State), exec i s = .next t →
      t.cycles = s.cycles + if transfers i s || repeats i s then i.row.cyclesTaken.getD i.row.cycles else i.row.cycles) ∧
    (∀ r, step s ≠ .refused r) ∧
    (∀ f, step s = .fault f →
      (∃ t op, f = .unimplementedOpcode t op ∧ fetched s = .unset t op) ∨
      (∃ v, f = .unsupportedMapperControl v ∧ s.mmu.mapper = .sega ∧
        (v.getLsbD 4 = true ∨ v.getLsbD 1 = true ∨ v.getLsbD 0 = true)))

/-- R39: the refresh register. It counts 1 for an acceptance, a halted step and an unprefixed instruction, 2 for a prefixed one; bit 7 changes by
`LD R,A` alone. -/
def Obligations.RefreshRegister : Prop :=
  ∀ s t : State, s.cpuStep = .next t →
    (s.pendingNmi = true ∨ IntReady s ∨ s.halted = true → t.r = refreshed s.r 1) ∧
    (s.pendingNmi = false → ¬ IntReady s → s.halted = false → ∃ table i, fetched s = .instr table i ∧
      t.r = if i = .ldRA then s.main.a else refreshed s.r (if table = .main then 1 else 2)) ∧
    (fetched s ≠ .instr .ed .ldRA → t.r.getLsbD 7 = s.r.getLsbD 7)

/-- R418: the control-flow property. An instruction that completes moves PC past its own bytes, unless it is a jump, call, return or restart
that is taken, or a repeating block instruction that goes round again, which leaves PC where it is. -/
def Obligations.ProgramCounterAdvances : Prop :=
  ∀ (i : Instr) (s t : State), exec i s = .next t →
    (transfers i s = false → repeats i s = false → t.pc = s.pc + BitVec.ofNat 16 i.length) ∧
    (repeats i s = true → t.pc = s.pc)

/-! ### Rules of the whole machine -/

/-- The invariant of the machine (`Inv`: R51, R80, R82, R86, R88, R89 for the MMU, R503 to R510, R528 for the VDP, R555 for the FIFO, R540 for
the screen) is kept by every step from every state that meets it, whichever agent's turn it is. -/
def Obligations.InvariantIsKept : Prop :=
  ∀ s t : State, Inv s → step s = .next t → Inv t

/-- The invariant holds at reset, whatever the OPEN arguments are (R82: no ROM has fewer than three banks), and for the arguments the model
names for `State.reset` (log entries 1 to 5). -/
def Obligations.InvariantAtReset : Prop :=
  (∀ p : ResetParams, Inv (State.resetWith p)) ∧ Inv State.reset

/-- R43, R44, R80, R482, R566: what no instruction changes. ROM, bank count and mapper; the NMI request; the host's inputs and outputs; the agents'
turns; the VDP's counters; the PSG but for one event, stamped with the cycle count at the start of the instruction, at the end of its
FIFO. No instruction raises a maskable request. -/
def Obligations.NoInstructionChanges : Prop :=
  ∀ (i : Instr) (s t : State), exec i s = .next t →
    t.mmu.rom = s.mmu.rom ∧ t.mmu.bankCount = s.mmu.bankCount ∧ t.mmu.mapper = s.mmu.mapper ∧
    t.pendingNmi = s.pendingNmi ∧ (t.pendingInt = true → s.pendingInt = true) ∧
    t.inputs = s.inputs ∧ t.outputs = s.outputs ∧ t.schedule = s.schedule ∧
    t.vdp.line = s.vdp.line ∧ t.vdp.hCounter = s.vdp.hCounter ∧ t.vdp.vCounter = s.vdp.vCounter ∧
    t.vdp.lineCounter = s.vdp.lineCounter ∧
    (t.psg = s.psg ∨ ∃ v, t.psg = { s.psg with fifo := s.psg.fifo ++ [{ byte := v, cycle := s.cycles }] })

/-- R24, R38 to R42, R45, R46: which instructions write the control state. -/
def Obligations.ControlStateWriters : Prop :=
  ∀ (i : Instr) (s t : State), exec i s = .next t →
    (t.i ≠ s.i → i = .ldIA) ∧ (t.r ≠ s.r → i = .ldRA) ∧
    (t.iff1 ≠ s.iff1 → i = .di ∨ i = .ei ∨ i = .reti ∨ i = .retn ∨ ∃ y, i = .retnMirror y) ∧
    (t.iff2 ≠ s.iff2 → i = .di ∨ i = .ei) ∧
    (t.im ≠ s.im → i = .im0 ∨ i = .im1 ∨ i = .im2 ∨ (∃ y, i = .im0Mirror y) ∨ i = .im1Mirror ∨ i = .im2Mirror) ∧
    (t.halted ≠ s.halted → i = .halt) ∧ (t.postEi ≠ s.postEi → i = .ei) ∧
    (t.shadow ≠ s.shadow → i = .exAfAf ∨ i = .exx)

/-- R582 to R584, R512, R556, R9, R80, R82: reset. For any values of the OPEN arguments the control state is as the spec's table has it, the slots are 0, 1, 2,
the VDP's registers and counters are 0 and the PSG is silent; the arguments fill the fields they are for: the ROM with the bank count that R9
derives from its length, the mapper, the four memories, the registers, the host's inputs. A memory argument is the list of its cells;
below the memory's size the memory reads as they say, and cells past it are not in it. The model's choices: that no line of the screen is there
(log entry 8; R512 leaves the pixel buffer unspecified), that the list of samples is empty (log entry 15), and that the host's inputs are an
argument of reset (log entries 5 and 26). -/
def Obligations.ResetState : Prop :=
  ∀ p : ResetParams,
    let s := State.resetWith p
    s.pc = 0x0000 ∧ s.iff1 = false ∧ s.iff2 = false ∧ s.im = .im0 ∧ s.i = 0x00 ∧ s.r = 0x00 ∧ s.pendingInt = false ∧
    s.pendingNmi = false ∧ s.postEi = false ∧ s.halted = false ∧ s.cycles = 0 ∧
    s.mmu.slot0 = 0 ∧ s.mmu.slot1 = 1 ∧ s.mmu.slot2 = 2 ∧ s.mmu.ramEnable = false ∧ s.mmu.ramBank = false ∧
    s.mmu.rom.length = p.rom.length ∧ s.mmu.bankCount = p.rom.length / 0x4000 ∧ p.rom.length % 0x4000 = 0 ∧ 0xC000 ≤ p.rom.length ∧
    (∀ a, a < p.rom.length → s.mmu.rom.read a = p.rom.read a) ∧ s.mmu.mapper = p.mapper ∧
    (∀ a, a < 0x2000 → s.mmu.sysRam.read a = Memory.read p.sysRam a) ∧
    (∀ a, a < 0x8000 → s.mmu.cartRam.read a = Memory.read p.cartRam a) ∧
    (∀ a, a < 0x4000 → s.vdp.vram.read a = Memory.read p.vram a) ∧ (∀ a, a < 0x20 → s.vdp.cram.read a = Memory.read p.cram a) ∧
    (MemoryOk p.rom.cells p.rom.length → s.mmu.rom = p.rom) ∧ (MemoryOk p.sysRam 0x2000 → s.mmu.sysRam = p.sysRam) ∧
    (MemoryOk p.cartRam 0x8000 → s.mmu.cartRam = p.cartRam) ∧ (MemoryOk p.vram 0x4000 → s.vdp.vram = p.vram) ∧
    (MemoryOk p.cram 0x20 → s.vdp.cram = p.cram) ∧
    (∀ k : Fin 11, s.vdp.reg[k] = 0) ∧ s.vdp.addr = 0 ∧ s.vdp.mode = .vram ∧ s.vdp.latch = 0 ∧ s.vdp.pending = false ∧
    s.vdp.readBuf = 0 ∧ s.vdp.status = 0 ∧ s.vdp.hCounter = 0 ∧ s.vdp.vCounter = 0 ∧ s.vdp.line = 0 ∧
    s.vdp.lineCounter = 0 ∧
    (∀ c : Fin 4, s.psg.vol[c] = 0xF) ∧ (∀ c : Fin 3, s.psg.tone[c] = 0 ∧ s.psg.phase[c] = 0 ∧ s.psg.out[c] = .plus) ∧
    s.psg.noise = 0 ∧ s.psg.latchCh = 0 ∧ s.psg.latchType = .tone ∧ s.psg.noisePos = 0 ∧ s.psg.clock = 0 ∧
    s.psg.fifo = [] ∧ s.main = p.main ∧ s.shadow = p.shadow ∧ s.sp = p.sp ∧ s.ixh = p.ixh ∧ s.ixl = p.ixl ∧
    s.iyh = p.iyh ∧ s.iyl = p.iyl ∧ s.inputs = p.inputs ∧ s.outputs.screen = [] ∧ s.outputs.audio = []

/-! ### Memory (spec/20_memory.md) -/

/-- R73: what an address reads. The first 1 KiB is ROM bank 0 whatever slot 0 is; cartridge RAM hides slot 2 where it is enabled; system RAM
fills 0xC000 to 0xFFFF twice. A word is two bytes, the low byte first, the second address modulo 0x10000. -/
def Obligations.MemoryMap : Prop :=
  ∀ (s : State) (a : Word),
    let m := s.mmu
    let n := a.toNat
    (n ≤ 0x03FF → s.read a = m.rom.read n) ∧
    (0x0400 ≤ n → n ≤ 0x3FFF → s.read a = m.rom.read (m.slot0 * 0x4000 + n)) ∧
    (0x4000 ≤ n → n ≤ 0x7FFF → s.read a = m.rom.read (m.slot1 * 0x4000 + (n - 0x4000))) ∧
    (0x8000 ≤ n → n ≤ 0xBFFF → m.ramEnable = true →
      s.read a = m.cartRam.read ((if m.ramBank then 0x4000 else 0) + (n - 0x8000))) ∧
    (0x8000 ≤ n → n ≤ 0xBFFF → m.ramEnable = false → s.read a = m.rom.read (m.slot2 * 0x4000 + (n - 0x8000))) ∧
    (0xC000 ≤ n → s.read a = m.sysRam.read (n % 0x2000)) ∧
    s.read16 a = wordOf (s.read (a + 1)) (s.read a)

/-- R86: binding a slot. `setMapperSlot(k, v)` binds slot k to bank `v mod BANK_COUNT` and changes nothing else; bytes equal modulo the bank
count bind the same bank; the bank exists; the very next reads of the window show it; what 0x0000 to 0x03FF reads does not change. -/
def Obligations.SlotBinding : Prop :=
  ∀ (m : Mmu) (v w : Byte) (b : Word),
    let bank := v.toNat % m.bankCount
    m.setMapperSlot 0 v = { m with slot0 := bank } ∧ m.setMapperSlot 1 v = { m with slot1 := bank } ∧
    m.setMapperSlot 2 v = { m with slot2 := bank } ∧ bank < m.bankCount ∧
    (w.toNat % m.bankCount = bank → ∀ k, m.setMapperSlot k w = m.setMapperSlot k v) ∧
    (0x0400 ≤ b.toNat → b.toNat < 0x4000 → (m.setMapperSlot 0 v).read b = m.rom.read (bank * 0x4000 + b.toNat)) ∧
    (0x4000 ≤ b.toNat → b.toNat < 0x8000 → (m.setMapperSlot 1 v).read b = m.rom.read (bank * 0x4000 + (b.toNat - 0x4000))) ∧
    (0x8000 ≤ b.toNat → b.toNat < 0xC000 → m.ramEnable = false →
      (m.setMapperSlot 2 v).read b = m.rom.read (bank * 0x4000 + (b.toNat - 0x8000))) ∧
    (b.toNat < 0x0400 → (m.setMapperSlot 0 v).read b = m.read b)

/-- R87, R90, R462, R76: the control register of the SEGA mapper, stores to ROM, and the mirror of system RAM. A control byte with bit 4, 1 or 0
set faults and writes nothing; another sets RAM enable and RAM bank from bits 3 and 2 and the RAM cell, and binds no slot. A store to ROM
space that is no mapper register changes nothing and the instruction completes at its usual cost. A byte stored in system RAM reads
back at both of its addresses. -/
def Obligations.ControlByteRomStoresAndMirror : Prop :=
  ∀ (s : State) (a : Word) (v : Byte),
    (s.mmu.mapper = .sega → (v.getLsbD 4 || v.getLsbD 1 || v.getLsbD 0) = true →
      s.write 0xFFFC v = .fault (.unsupportedMapperControl v)) ∧
    (s.mmu.mapper = .sega → (v.getLsbD 4 || v.getLsbD 1 || v.getLsbD 0) = false → ∃ m, s.write 0xFFFC v = .next { s with mmu := m } ∧
      m.ramEnable = v.getLsbD 3 ∧ m.ramBank = v.getLsbD 2 ∧ m.read 0xFFFC = v ∧ m.slot0 = s.mmu.slot0 ∧
      m.slot1 = s.mmu.slot1 ∧ m.slot2 = s.mmu.slot2 ∧ m.cartRam = s.mmu.cartRam) ∧
    (s.mmu.mapper ≠ .sega → ∃ m, s.write a v = .next { s with mmu := m } ∧ m.ramEnable = s.mmu.ramEnable) ∧
    (a.toNat < 0xC000 → (0x8000 ≤ a.toNat → s.mmu.ramEnable = false) → slotRegister s.mmu a = none →
      s.write a v = .next s ∧ exec (.ldIndNnA a) s = .next (past s 3 13)) ∧
    (0xC000 ≤ a.toNat → a.toNat < 0xE000 → s.read (a + 0x2000) = s.read a ∧
      ∀ t, s.write a v = .next t ∨ s.write (a + 0x2000) v = .next t → t.read a = v ∧ t.read (a + 0x2000) = v)

/-- R95 to R99: the port map, for reads and for writes. Two clauses are not the rules' plain words. The odd ports of 0xC0 to 0xFF but 0xDF answer
the host input `inputs.joypadB`, which is the model's choice (DESIGN CHOICE, log entry 5): R95 gives 0xFF there, and R100 lets a model
replace it. The value of an odd port of 0x40 to 0x7F is the cycle accumulator as R510 defines it, not the chip's counter (DEDUCED, log entry
18): R510 says that no claim should rest on it. -/
def Obligations.PortMap : Prop :=
  ∀ (s : State) (p v : Byte),
    let n := p.toNat
    (n < 0x40 → s.portRead p = (0xFF, s) ∧ s.portWrite p v = s) ∧
    (0x40 ≤ n → n < 0x80 →
      s.portRead p = (if n % 2 = 0 then s.vdp.vCounter else BitVec.ofNat 8 s.vdp.hCounter, s) ∧
      s.portWrite p v = { s with psg := { s.psg with fifo := s.psg.fifo ++ [{ byte := v, cycle := s.cycles }] } }) ∧
    (0x80 ≤ n → n < 0xC0 → n % 2 = 0 →
      s.portRead p = (s.vdp.dataRead.1, { s with vdp := s.vdp.dataRead.2 }) ∧
      s.portWrite p v = { s with vdp := s.vdp.dataWrite v }) ∧
    (0x80 ≤ n → n < 0xC0 → n % 2 = 1 →
      s.portRead p = (s.vdp.statusRead.1, { s with vdp := s.vdp.statusRead.2, pendingInt := false }) ∧
      s.portWrite p v = { s with vdp := s.vdp.controlWrite v }) ∧
    (0xC0 ≤ n → s.portWrite p v = s ∧
      s.portRead p = (if p = 0xDE ∨ p = 0xDF then 0xFF else if n % 2 = 1 then s.inputs.joypadB else 0b11#2 ++ s.inputs.buttons,
        s))

/-! ### The VDP (spec/65_platform_devices.md) -/

/-- R513 to R518: the VDP ports. The control word of two bytes by its top two bits, the data port in both modes, the status read. -/
def Obligations.VdpPorts : Prop :=
  ∀ (v : Vdp) (x y : Byte),
    let w := { v with latch := x, pending := false }
    let target : BitVec 14 := (y ++ x).extractLsb' 0 14
    let twice := (v.controlWrite x).controlWrite y
    (v.pending = false → v.controlWrite x = { v with latch := x, pending := true }) ∧
    (v.pending = false → y.toNat / 64 = 0 →
      twice = { w with mode := .vram, readBuf := v.vram.read target.toNat, addr := target + 1 }) ∧
    (v.pending = false → y.toNat / 64 = 1 → twice = { w with mode := .vram, addr := target }) ∧
    (v.pending = false → y.toNat / 64 = 2 → ∃ regs, twice = { w with reg := regs } ∧
      ∀ k : Fin 11, regs[k] = if k.1 = y.toNat % 16 then x else v.reg[k]) ∧
    (v.pending = false → y.toNat / 64 = 3 → twice = { w with mode := .cram, addr := target }) ∧
    (∃ r, v.dataWrite x = { r with pending := false, readBuf := x, addr := v.addr + 1 } ∧
      (v.mode = .vram → r = { v with vram := v.vram.write v.addr.toNat x }) ∧
      (v.mode = .cram → r = { v with cram := v.cram.write (v.addr.toNat % 32) x })) ∧
    v.dataRead = (v.readBuf, { v with pending := false, readBuf := v.vram.read v.addr.toNat, addr := v.addr + 1 }) ∧
    v.statusRead = (v.status, { v with status := 0, pending := false })

/-- R525, R526, R528, R532: where an advance of `n` cycles ends. Line and horizontal counter count the cycles modulo the 59,736 of a frame, the
return value says whether the frame boundary was crossed, the V counter is that of the line, and the CPU, the memories, the ports'
registers and the PSG are as before. The loop of R525 is in closed form (log entry 12). -/
def Obligations.VdpPosition : Prop :=
  ∀ (s : State) (n : Nat), VdpOk s.vdp →
    let t := s.advance n
    let p := s.vdp.line * 228 + s.vdp.hCounter + n
    t.vdp.line * 228 + t.vdp.hCounter = p % 59736 ∧ t.vdp.hCounter < 228 ∧ t.vdp.line < 262 ∧
    (t.outputs.frameDone = true ↔ 59736 ≤ p) ∧
    t.vdp.vCounter.toNat = (if t.vdp.line ≤ 218 then t.vdp.line else t.vdp.line - 6) ∧
    (s.pendingInt = true → t.pendingInt = true) ∧ t.outputs.audio = s.outputs.audio ∧
    ∃ st lc, t = { s with
      vdp := { s.vdp with
        line := t.vdp.line, hCounter := t.vdp.hCounter, vCounter := t.vdp.vCounter, status := st, lineCounter := lc }
      pendingInt := t.pendingInt, outputs := t.outputs, freeDraws := t.freeDraws }

/-- R525, R531, R533: the events at the end of a scanline. An advance that completes one line counts the line counter down, or reloads it, and
requests an interrupt where the counter was 0 in lines 0 to 192 and IE1 is set, or where line 192 begins and IE0 is set; line 192 sets
status bit 7 whether or not the interrupt is enabled (log entry 12). Completing a line below 192 renders that line, and only that one; completing
line 261 is the frame boundary. An advance that completes no line does none of this. -/
def Obligations.InterruptEvents : Prop :=
  ∀ (s : State) (n : Nat), s.vdp.hCounter < 228 → s.vdp.line < 262 →
    let t := s.advance n
    let l := (s.vdp.line + 1) % 262
    (s.vdp.hCounter + n < 228 → t = { s with
      vdp := { s.vdp with hCounter := s.vdp.hCounter + n }, outputs := { s.outputs with frameDone := false } }) ∧
    (228 ≤ s.vdp.hCounter + n → s.vdp.hCounter + n < 456 →
      let drawn := if s.vdp.line < 192 then s.render s.vdp.line else s
      t.outputs = { drawn.outputs with frameDone := decide (l = 0) } ∧ t.freeDraws = drawn.freeDraws ∧
      t.vdp.status = drawn.vdp.status ||| (if l = 192 then 0x80 else 0) ∧
      t.vdp.lineCounter = (if l ≤ 192 ∧ s.vdp.lineCounter ≠ 0 then s.vdp.lineCounter - 1 else s.vdp.reg[10]) ∧
      (t.pendingInt = true ↔ s.pendingInt = true ∨ (l ≤ 192 ∧ s.vdp.lineCounter = 0 ∧ s.vdp.reg[0].getLsbD 4 = true) ∨
        (l = 192 ∧ s.vdp.reg[1].getLsbD 5 = true)) ∧
      (t.vdp.status.getLsbD 7 = true ↔ s.vdp.status.getLsbD 7 = true ∨ l = 192))

/-- R540 to R542, R545, R546, R548: rendering line `y`. The line is replaced and no other; a blanked line is the backdrop; a Mode 4 line with
the column mask begins with eight pixels of backdrop; only a displayed Mode 4 line can change the status byte: it sets bit 6 exactly when the
sprite scan overflows (`SpriteOverflow`) and bit 5 exactly when two opaque sprite pixels meet, and no other bit. Colours are four bytes, two
bits of CRAM each times 85. The pixels of a legacy line are free values (log entry 7). -/
def Obligations.RenderedLines : Prop :=
  ∀ (s : State) (y : Nat),
    let t := s.render y
    let colour (i : Nat) : Rgba :=
      let c := (s.vdp.cram.read i).toNat
      { r := BitVec.ofNat 8 (c % 4 * 85), g := BitVec.ofNat 8 (c / 4 % 4 * 85), b := BitVec.ofNat 8 (c / 16 % 4 * 85), a := 255 }
    let backdrop := colour (16 + s.vdp.reg[7].toNat % 16)
    let shown := s.vdp.reg[1].getLsbD 6
    let mode4 := s.vdp.reg[0].getLsbD 2
    (∀ z, z ≠ y → t.outputs.screen.lookup z = s.outputs.screen.lookup z) ∧
    (∃ line, t.outputs.screen.lookup y = some line ∧ line.length = 256 ∧
      (shown = false → line = List.replicate 256 backdrop) ∧
      (shown = true → mode4 = true → s.vdp.reg[0].getLsbD 5 = true → line.take 8 = List.replicate 8 backdrop)) ∧
    (shown = false ∨ mode4 = false → t.vdp = s.vdp) ∧
    (shown = true → mode4 = true → ∃ o c : Bool, (o = true ↔ (s.vdp.sprites y).overflow = true) ∧ (c = true ↔ SpritesMeet s.vdp y) ∧
      t.vdp = { s.vdp with status := s.vdp.status ||| (if o then 0x40 else 0) ||| (if c then 0x20 else 0) }) ∧
    t = { s with vdp := t.vdp, outputs := t.outputs, freeDraws := t.freeDraws } ∧
    t.outputs.audio = s.outputs.audio ∧ t.outputs.frameDone = s.outputs.frameDone

/-- R544, R546: sprite overflow. A line overflows exactly when more than eight of the sprites before the first with the sentinel Y-value 0xD0
fall on it. -/
def Obligations.SpriteOverflow : Prop :=
  ∀ (v : Vdp) (y : Nat),
    let ys := (List.range 64).map fun i => (v.vram.read ((v.satBase + i) % 0x4000)).toNat
    let top (sy : Nat) : Int := if 0xE0 ≤ sy then (sy : Int) + 1 - 256 else (sy : Int) + 1
    let h : Int := if v.reg[1].getLsbD 1 then 16 else 8
    (v.sprites y).overflow = decide (8 < (ys.takeWhile (· ≠ 0xD0)).countP fun sy => decide (top sy ≤ y ∧ (y : Int) < top sy + h))

/-! ### The PSG -/

/-- R558: `PSG.apply`. A latch byte selects a channel and a register and writes its low bits; a data byte completes the latched register; a write
to the noise register restarts the noise. Nothing else changes: that the count towards the next noise step goes on is the model's choice, the
spec being silent (DESIGN CHOICE, log entry 14). -/
def Obligations.PsgByteProtocol : Prop :=
  ∀ (p : Psg) (v : Byte),
    let ch := if v.getLsbD 7 then v.toNat / 32 % 4 else p.latchCh.toNat
    let vol := if v.getLsbD 7 then v.getLsbD 4 else decide (p.latchType = .volume)
    let q := p.apply v
    q.latchCh.toNat = ch ∧ (q.latchType = .volume ↔ vol = true) ∧
    (∀ c : Fin 4, q.vol[c].toNat = if vol = true ∧ c.1 = ch then v.toNat % 16 else p.vol[c].toNat) ∧
    (∀ c : Fin 3, q.tone[c].toNat =
      if vol = false ∧ c.1 = ch then
        (if v.getLsbD 7 then p.tone[c].toNat / 16 * 16 + v.toNat % 16 else v.toNat % 64 * 16 + p.tone[c].toNat % 16)
      else p.tone[c].toNat) ∧
    (vol = false ∧ ch = 3 → q.noise.toNat = v.toNat % 8 ∧ q.noisePos = 0) ∧
    (¬ (vol = false ∧ ch = 3) → q.noise = p.noise ∧ q.noisePos = p.noisePos) ∧
    q = { p with latchCh := q.latchCh, latchType := q.latchType, vol := q.vol, tone := q.tone, noise := q.noise,
                 noisePos := q.noisePos }

/-- R563: the mixer. It takes from the head of the FIFO, in order, exactly the events that are due before the first that is not, applies them in
that order, and moves its clock on by one sample. The clock counts in units of
1/SAMPLE_RATE of a cycle (log entry 13). -/
def Obligations.MixerTakesDueEvents : Prop :=
  ∀ p : Psg,
    let due (e : PsgEvent) : Bool := decide (e.cycle * Config.sampleRate ≤ p.clock)
    let applied := (p.fifo.takeWhile due).foldl (fun q e => q.apply e.byte) p
    let t := p.mixOne.2
    t.fifo = p.fifo.dropWhile due ∧ t.vol = applied.vol ∧ t.tone = applied.tone ∧ t.noise = applied.noise ∧
    t.latchCh = applied.latchCh ∧ t.latchType = applied.latchType ∧ t.clock = p.clock + 3579545

/-- R562, R565: a sample lies between -1 and +1 whatever the OPEN tables hold (log entry 14), and is 0 where all four volumes are 0xF. -/
def Obligations.SamplesAreNormalised : Prop :=
  ∀ p : Psg, -1 ≤ p.mixOne.1 ∧ p.mixOne.1 ≤ 1 ∧ ((∀ c : Fin 4, p.mixOne.2.vol[c] = 0xF) → p.mixOne.1 = 0)
end

