-- ==== Sys2Proof/Laws/State.lean ====
section
/-! SUPPORT. One lemma for each field of State under each named update, so that no later proof unfolds a record update. -/

namespace Sys2Proof.Machine.State

variable (s : State)

/-! ### `setR` -/

@[simp] theorem setR_main (r : Reg8) (v : Byte) : (s.setR r v).main = s.main.set r v := rfl
@[simp] theorem setR_shadow (r : Reg8) (v : Byte) : (s.setR r v).shadow = s.shadow := rfl
@[simp] theorem setR_ixh (r : Reg8) (v : Byte) : (s.setR r v).ixh = s.ixh := rfl
@[simp] theorem setR_ixl (r : Reg8) (v : Byte) : (s.setR r v).ixl = s.ixl := rfl
@[simp] theorem setR_iyh (r : Reg8) (v : Byte) : (s.setR r v).iyh = s.iyh := rfl
@[simp] theorem setR_iyl (r : Reg8) (v : Byte) : (s.setR r v).iyl = s.iyl := rfl
@[simp] theorem setR_sp (r : Reg8) (v : Byte) : (s.setR r v).sp = s.sp := rfl
@[simp] theorem setR_pc (r : Reg8) (v : Byte) : (s.setR r v).pc = s.pc := rfl
@[simp] theorem setR_i (r : Reg8) (v : Byte) : (s.setR r v).i = s.i := rfl
@[simp] theorem setR_r (r : Reg8) (v : Byte) : (s.setR r v).r = s.r := rfl
@[simp] theorem setR_iff1 (r : Reg8) (v : Byte) : (s.setR r v).iff1 = s.iff1 := rfl
@[simp] theorem setR_iff2 (r : Reg8) (v : Byte) : (s.setR r v).iff2 = s.iff2 := rfl
@[simp] theorem setR_im (r : Reg8) (v : Byte) : (s.setR r v).im = s.im := rfl
@[simp] theorem setR_pendingInt (r : Reg8) (v : Byte) : (s.setR r v).pendingInt = s.pendingInt := rfl
@[simp] theorem setR_pendingNmi (r : Reg8) (v : Byte) : (s.setR r v).pendingNmi = s.pendingNmi := rfl
@[simp] theorem setR_halted (r : Reg8) (v : Byte) : (s.setR r v).halted = s.halted := rfl
@[simp] theorem setR_postEi (r : Reg8) (v : Byte) : (s.setR r v).postEi = s.postEi := rfl
@[simp] theorem setR_cycles (r : Reg8) (v : Byte) : (s.setR r v).cycles = s.cycles := rfl
@[simp] theorem setR_mmu (r : Reg8) (v : Byte) : (s.setR r v).mmu = s.mmu := rfl
@[simp] theorem setR_vdp (r : Reg8) (v : Byte) : (s.setR r v).vdp = s.vdp := rfl
@[simp] theorem setR_psg (r : Reg8) (v : Byte) : (s.setR r v).psg = s.psg := rfl
@[simp] theorem setR_inputs (r : Reg8) (v : Byte) : (s.setR r v).inputs = s.inputs := rfl
@[simp] theorem setR_outputs (r : Reg8) (v : Byte) : (s.setR r v).outputs = s.outputs := rfl
@[simp] theorem setR_schedule (r : Reg8) (v : Byte) : (s.setR r v).schedule = s.schedule := rfl
@[simp] theorem setR_freeDraws (r : Reg8) (v : Byte) : (s.setR r v).freeDraws = s.freeDraws := rfl

/-! ### `setPlain` -/

@[simp] theorem setPlain_shadow (r : PlainReg) (v : Byte) : (s.setPlain r v).shadow = s.shadow := by cases r <;> rfl
@[simp] theorem setPlain_ixh (r : PlainReg) (v : Byte) : (s.setPlain r v).ixh = s.ixh := by cases r <;> rfl
@[simp] theorem setPlain_ixl (r : PlainReg) (v : Byte) : (s.setPlain r v).ixl = s.ixl := by cases r <;> rfl
@[simp] theorem setPlain_iyh (r : PlainReg) (v : Byte) : (s.setPlain r v).iyh = s.iyh := by cases r <;> rfl
@[simp] theorem setPlain_iyl (r : PlainReg) (v : Byte) : (s.setPlain r v).iyl = s.iyl := by cases r <;> rfl
@[simp] theorem setPlain_sp (r : PlainReg) (v : Byte) : (s.setPlain r v).sp = s.sp := by cases r <;> rfl
@[simp] theorem setPlain_pc (r : PlainReg) (v : Byte) : (s.setPlain r v).pc = s.pc := by cases r <;> rfl
@[simp] theorem setPlain_i (r : PlainReg) (v : Byte) : (s.setPlain r v).i = s.i := by cases r <;> rfl
@[simp] theorem setPlain_r (r : PlainReg) (v : Byte) : (s.setPlain r v).r = s.r := by cases r <;> rfl
@[simp] theorem setPlain_iff1 (r : PlainReg) (v : Byte) : (s.setPlain r v).iff1 = s.iff1 := by cases r <;> rfl
@[simp] theorem setPlain_iff2 (r : PlainReg) (v : Byte) : (s.setPlain r v).iff2 = s.iff2 := by cases r <;> rfl
@[simp] theorem setPlain_im (r : PlainReg) (v : Byte) : (s.setPlain r v).im = s.im := by cases r <;> rfl
@[simp] theorem setPlain_pendingInt (r : PlainReg) (v : Byte) : (s.setPlain r v).pendingInt = s.pendingInt := by cases r <;> rfl
@[simp] theorem setPlain_pendingNmi (r : PlainReg) (v : Byte) : (s.setPlain r v).pendingNmi = s.pendingNmi := by cases r <;> rfl
@[simp] theorem setPlain_halted (r : PlainReg) (v : Byte) : (s.setPlain r v).halted = s.halted := by cases r <;> rfl
@[simp] theorem setPlain_postEi (r : PlainReg) (v : Byte) : (s.setPlain r v).postEi = s.postEi := by cases r <;> rfl
@[simp] theorem setPlain_cycles (r : PlainReg) (v : Byte) : (s.setPlain r v).cycles = s.cycles := by cases r <;> rfl
@[simp] theorem setPlain_mmu (r : PlainReg) (v : Byte) : (s.setPlain r v).mmu = s.mmu := by cases r <;> rfl
@[simp] theorem setPlain_vdp (r : PlainReg) (v : Byte) : (s.setPlain r v).vdp = s.vdp := by cases r <;> rfl
@[simp] theorem setPlain_psg (r : PlainReg) (v : Byte) : (s.setPlain r v).psg = s.psg := by cases r <;> rfl
@[simp] theorem setPlain_inputs (r : PlainReg) (v : Byte) : (s.setPlain r v).inputs = s.inputs := by cases r <;> rfl
@[simp] theorem setPlain_outputs (r : PlainReg) (v : Byte) : (s.setPlain r v).outputs = s.outputs := by cases r <;> rfl
@[simp] theorem setPlain_schedule (r : PlainReg) (v : Byte) : (s.setPlain r v).schedule = s.schedule := by cases r <;> rfl
@[simp] theorem setPlain_freeDraws (r : PlainReg) (v : Byte) : (s.setPlain r v).freeDraws = s.freeDraws := by cases r <;> rfl

/-! ### `setA` -/

@[simp] theorem setA_main (v : Byte) : (s.setA v).main = { s.main with a := v } := rfl
@[simp] theorem setA_shadow (v : Byte) : (s.setA v).shadow = s.shadow := rfl
@[simp] theorem setA_ixh (v : Byte) : (s.setA v).ixh = s.ixh := rfl
@[simp] theorem setA_ixl (v : Byte) : (s.setA v).ixl = s.ixl := rfl
@[simp] theorem setA_iyh (v : Byte) : (s.setA v).iyh = s.iyh := rfl
@[simp] theorem setA_iyl (v : Byte) : (s.setA v).iyl = s.iyl := rfl
@[simp] theorem setA_sp (v : Byte) : (s.setA v).sp = s.sp := rfl
@[simp] theorem setA_pc (v : Byte) : (s.setA v).pc = s.pc := rfl
@[simp] theorem setA_i (v : Byte) : (s.setA v).i = s.i := rfl
@[simp] theorem setA_r (v : Byte) : (s.setA v).r = s.r := rfl
@[simp] theorem setA_iff1 (v : Byte) : (s.setA v).iff1 = s.iff1 := rfl
@[simp] theorem setA_iff2 (v : Byte) : (s.setA v).iff2 = s.iff2 := rfl
@[simp] theorem setA_im (v : Byte) : (s.setA v).im = s.im := rfl
@[simp] theorem setA_pendingInt (v : Byte) : (s.setA v).pendingInt = s.pendingInt := rfl
@[simp] theorem setA_pendingNmi (v : Byte) : (s.setA v).pendingNmi = s.pendingNmi := rfl
@[simp] theorem setA_halted (v : Byte) : (s.setA v).halted = s.halted := rfl
@[simp] theorem setA_postEi (v : Byte) : (s.setA v).postEi = s.postEi := rfl
@[simp] theorem setA_cycles (v : Byte) : (s.setA v).cycles = s.cycles := rfl
@[simp] theorem setA_mmu (v : Byte) : (s.setA v).mmu = s.mmu := rfl
@[simp] theorem setA_vdp (v : Byte) : (s.setA v).vdp = s.vdp := rfl
@[simp] theorem setA_psg (v : Byte) : (s.setA v).psg = s.psg := rfl
@[simp] theorem setA_inputs (v : Byte) : (s.setA v).inputs = s.inputs := rfl
@[simp] theorem setA_outputs (v : Byte) : (s.setA v).outputs = s.outputs := rfl
@[simp] theorem setA_schedule (v : Byte) : (s.setA v).schedule = s.schedule := rfl
@[simp] theorem setA_freeDraws (v : Byte) : (s.setA v).freeDraws = s.freeDraws := rfl

/-! ### `setF` -/

@[simp] theorem setF_main (v : Byte) : (s.setF v).main = { s.main with f := v } := rfl
@[simp] theorem setF_shadow (v : Byte) : (s.setF v).shadow = s.shadow := rfl
@[simp] theorem setF_ixh (v : Byte) : (s.setF v).ixh = s.ixh := rfl
@[simp] theorem setF_ixl (v : Byte) : (s.setF v).ixl = s.ixl := rfl
@[simp] theorem setF_iyh (v : Byte) : (s.setF v).iyh = s.iyh := rfl
@[simp] theorem setF_iyl (v : Byte) : (s.setF v).iyl = s.iyl := rfl
@[simp] theorem setF_sp (v : Byte) : (s.setF v).sp = s.sp := rfl
@[simp] theorem setF_pc (v : Byte) : (s.setF v).pc = s.pc := rfl
@[simp] theorem setF_i (v : Byte) : (s.setF v).i = s.i := rfl
@[simp] theorem setF_r (v : Byte) : (s.setF v).r = s.r := rfl
@[simp] theorem setF_iff1 (v : Byte) : (s.setF v).iff1 = s.iff1 := rfl
@[simp] theorem setF_iff2 (v : Byte) : (s.setF v).iff2 = s.iff2 := rfl
@[simp] theorem setF_im (v : Byte) : (s.setF v).im = s.im := rfl
@[simp] theorem setF_pendingInt (v : Byte) : (s.setF v).pendingInt = s.pendingInt := rfl
@[simp] theorem setF_pendingNmi (v : Byte) : (s.setF v).pendingNmi = s.pendingNmi := rfl
@[simp] theorem setF_halted (v : Byte) : (s.setF v).halted = s.halted := rfl
@[simp] theorem setF_postEi (v : Byte) : (s.setF v).postEi = s.postEi := rfl
@[simp] theorem setF_cycles (v : Byte) : (s.setF v).cycles = s.cycles := rfl
@[simp] theorem setF_mmu (v : Byte) : (s.setF v).mmu = s.mmu := rfl
@[simp] theorem setF_vdp (v : Byte) : (s.setF v).vdp = s.vdp := rfl
@[simp] theorem setF_psg (v : Byte) : (s.setF v).psg = s.psg := rfl
@[simp] theorem setF_inputs (v : Byte) : (s.setF v).inputs = s.inputs := rfl
@[simp] theorem setF_outputs (v : Byte) : (s.setF v).outputs = s.outputs := rfl
@[simp] theorem setF_schedule (v : Byte) : (s.setF v).schedule = s.schedule := rfl
@[simp] theorem setF_freeDraws (v : Byte) : (s.setF v).freeDraws = s.freeDraws := rfl

/-! ### `setBc` -/

@[simp] theorem setBc_main (v : Word) : (s.setBc v).main = { s.main with b := hiByte v, c := loByte v } := rfl
@[simp] theorem setBc_shadow (v : Word) : (s.setBc v).shadow = s.shadow := rfl
@[simp] theorem setBc_ixh (v : Word) : (s.setBc v).ixh = s.ixh := rfl
@[simp] theorem setBc_ixl (v : Word) : (s.setBc v).ixl = s.ixl := rfl
@[simp] theorem setBc_iyh (v : Word) : (s.setBc v).iyh = s.iyh := rfl
@[simp] theorem setBc_iyl (v : Word) : (s.setBc v).iyl = s.iyl := rfl
@[simp] theorem setBc_sp (v : Word) : (s.setBc v).sp = s.sp := rfl
@[simp] theorem setBc_pc (v : Word) : (s.setBc v).pc = s.pc := rfl
@[simp] theorem setBc_i (v : Word) : (s.setBc v).i = s.i := rfl
@[simp] theorem setBc_r (v : Word) : (s.setBc v).r = s.r := rfl
@[simp] theorem setBc_iff1 (v : Word) : (s.setBc v).iff1 = s.iff1 := rfl
@[simp] theorem setBc_iff2 (v : Word) : (s.setBc v).iff2 = s.iff2 := rfl
@[simp] theorem setBc_im (v : Word) : (s.setBc v).im = s.im := rfl
@[simp] theorem setBc_pendingInt (v : Word) : (s.setBc v).pendingInt = s.pendingInt := rfl
@[simp] theorem setBc_pendingNmi (v : Word) : (s.setBc v).pendingNmi = s.pendingNmi := rfl
@[simp] theorem setBc_halted (v : Word) : (s.setBc v).halted = s.halted := rfl
@[simp] theorem setBc_postEi (v : Word) : (s.setBc v).postEi = s.postEi := rfl
@[simp] theorem setBc_cycles (v : Word) : (s.setBc v).cycles = s.cycles := rfl
@[simp] theorem setBc_mmu (v : Word) : (s.setBc v).mmu = s.mmu := rfl
@[simp] theorem setBc_vdp (v : Word) : (s.setBc v).vdp = s.vdp := rfl
@[simp] theorem setBc_psg (v : Word) : (s.setBc v).psg = s.psg := rfl
@[simp] theorem setBc_inputs (v : Word) : (s.setBc v).inputs = s.inputs := rfl
@[simp] theorem setBc_outputs (v : Word) : (s.setBc v).outputs = s.outputs := rfl
@[simp] theorem setBc_schedule (v : Word) : (s.setBc v).schedule = s.schedule := rfl
@[simp] theorem setBc_freeDraws (v : Word) : (s.setBc v).freeDraws = s.freeDraws := rfl

/-! ### `setDe` -/

@[simp] theorem setDe_main (v : Word) : (s.setDe v).main = { s.main with d := hiByte v, e := loByte v } := rfl
@[simp] theorem setDe_shadow (v : Word) : (s.setDe v).shadow = s.shadow := rfl
@[simp] theorem setDe_ixh (v : Word) : (s.setDe v).ixh = s.ixh := rfl
@[simp] theorem setDe_ixl (v : Word) : (s.setDe v).ixl = s.ixl := rfl
@[simp] theorem setDe_iyh (v : Word) : (s.setDe v).iyh = s.iyh := rfl
@[simp] theorem setDe_iyl (v : Word) : (s.setDe v).iyl = s.iyl := rfl
@[simp] theorem setDe_sp (v : Word) : (s.setDe v).sp = s.sp := rfl
@[simp] theorem setDe_pc (v : Word) : (s.setDe v).pc = s.pc := rfl
@[simp] theorem setDe_i (v : Word) : (s.setDe v).i = s.i := rfl
@[simp] theorem setDe_r (v : Word) : (s.setDe v).r = s.r := rfl
@[simp] theorem setDe_iff1 (v : Word) : (s.setDe v).iff1 = s.iff1 := rfl
@[simp] theorem setDe_iff2 (v : Word) : (s.setDe v).iff2 = s.iff2 := rfl
@[simp] theorem setDe_im (v : Word) : (s.setDe v).im = s.im := rfl
@[simp] theorem setDe_pendingInt (v : Word) : (s.setDe v).pendingInt = s.pendingInt := rfl
@[simp] theorem setDe_pendingNmi (v : Word) : (s.setDe v).pendingNmi = s.pendingNmi := rfl
@[simp] theorem setDe_halted (v : Word) : (s.setDe v).halted = s.halted := rfl
@[simp] theorem setDe_postEi (v : Word) : (s.setDe v).postEi = s.postEi := rfl
@[simp] theorem setDe_cycles (v : Word) : (s.setDe v).cycles = s.cycles := rfl
@[simp] theorem setDe_mmu (v : Word) : (s.setDe v).mmu = s.mmu := rfl
@[simp] theorem setDe_vdp (v : Word) : (s.setDe v).vdp = s.vdp := rfl
@[simp] theorem setDe_psg (v : Word) : (s.setDe v).psg = s.psg := rfl
@[simp] theorem setDe_inputs (v : Word) : (s.setDe v).inputs = s.inputs := rfl
@[simp] theorem setDe_outputs (v : Word) : (s.setDe v).outputs = s.outputs := rfl
@[simp] theorem setDe_schedule (v : Word) : (s.setDe v).schedule = s.schedule := rfl
@[simp] theorem setDe_freeDraws (v : Word) : (s.setDe v).freeDraws = s.freeDraws := rfl

/-! ### `setHl` -/

@[simp] theorem setHl_main (v : Word) : (s.setHl v).main = { s.main with h := hiByte v, l := loByte v } := rfl
@[simp] theorem setHl_shadow (v : Word) : (s.setHl v).shadow = s.shadow := rfl
@[simp] theorem setHl_ixh (v : Word) : (s.setHl v).ixh = s.ixh := rfl
@[simp] theorem setHl_ixl (v : Word) : (s.setHl v).ixl = s.ixl := rfl
@[simp] theorem setHl_iyh (v : Word) : (s.setHl v).iyh = s.iyh := rfl
@[simp] theorem setHl_iyl (v : Word) : (s.setHl v).iyl = s.iyl := rfl
@[simp] theorem setHl_sp (v : Word) : (s.setHl v).sp = s.sp := rfl
@[simp] theorem setHl_pc (v : Word) : (s.setHl v).pc = s.pc := rfl
@[simp] theorem setHl_i (v : Word) : (s.setHl v).i = s.i := rfl
@[simp] theorem setHl_r (v : Word) : (s.setHl v).r = s.r := rfl
@[simp] theorem setHl_iff1 (v : Word) : (s.setHl v).iff1 = s.iff1 := rfl
@[simp] theorem setHl_iff2 (v : Word) : (s.setHl v).iff2 = s.iff2 := rfl
@[simp] theorem setHl_im (v : Word) : (s.setHl v).im = s.im := rfl
@[simp] theorem setHl_pendingInt (v : Word) : (s.setHl v).pendingInt = s.pendingInt := rfl
@[simp] theorem setHl_pendingNmi (v : Word) : (s.setHl v).pendingNmi = s.pendingNmi := rfl
@[simp] theorem setHl_halted (v : Word) : (s.setHl v).halted = s.halted := rfl
@[simp] theorem setHl_postEi (v : Word) : (s.setHl v).postEi = s.postEi := rfl
@[simp] theorem setHl_cycles (v : Word) : (s.setHl v).cycles = s.cycles := rfl
@[simp] theorem setHl_mmu (v : Word) : (s.setHl v).mmu = s.mmu := rfl
@[simp] theorem setHl_vdp (v : Word) : (s.setHl v).vdp = s.vdp := rfl
@[simp] theorem setHl_psg (v : Word) : (s.setHl v).psg = s.psg := rfl
@[simp] theorem setHl_inputs (v : Word) : (s.setHl v).inputs = s.inputs := rfl
@[simp] theorem setHl_outputs (v : Word) : (s.setHl v).outputs = s.outputs := rfl
@[simp] theorem setHl_schedule (v : Word) : (s.setHl v).schedule = s.schedule := rfl
@[simp] theorem setHl_freeDraws (v : Word) : (s.setHl v).freeDraws = s.freeDraws := rfl

/-! ### `setAf` -/

@[simp] theorem setAf_main (v : Word) : (s.setAf v).main = { s.main with a := hiByte v, f := loByte v } := rfl
@[simp] theorem setAf_shadow (v : Word) : (s.setAf v).shadow = s.shadow := rfl
@[simp] theorem setAf_ixh (v : Word) : (s.setAf v).ixh = s.ixh := rfl
@[simp] theorem setAf_ixl (v : Word) : (s.setAf v).ixl = s.ixl := rfl
@[simp] theorem setAf_iyh (v : Word) : (s.setAf v).iyh = s.iyh := rfl
@[simp] theorem setAf_iyl (v : Word) : (s.setAf v).iyl = s.iyl := rfl
@[simp] theorem setAf_sp (v : Word) : (s.setAf v).sp = s.sp := rfl
@[simp] theorem setAf_pc (v : Word) : (s.setAf v).pc = s.pc := rfl
@[simp] theorem setAf_i (v : Word) : (s.setAf v).i = s.i := rfl
@[simp] theorem setAf_r (v : Word) : (s.setAf v).r = s.r := rfl
@[simp] theorem setAf_iff1 (v : Word) : (s.setAf v).iff1 = s.iff1 := rfl
@[simp] theorem setAf_iff2 (v : Word) : (s.setAf v).iff2 = s.iff2 := rfl
@[simp] theorem setAf_im (v : Word) : (s.setAf v).im = s.im := rfl
@[simp] theorem setAf_pendingInt (v : Word) : (s.setAf v).pendingInt = s.pendingInt := rfl
@[simp] theorem setAf_pendingNmi (v : Word) : (s.setAf v).pendingNmi = s.pendingNmi := rfl
@[simp] theorem setAf_halted (v : Word) : (s.setAf v).halted = s.halted := rfl
@[simp] theorem setAf_postEi (v : Word) : (s.setAf v).postEi = s.postEi := rfl
@[simp] theorem setAf_cycles (v : Word) : (s.setAf v).cycles = s.cycles := rfl
@[simp] theorem setAf_mmu (v : Word) : (s.setAf v).mmu = s.mmu := rfl
@[simp] theorem setAf_vdp (v : Word) : (s.setAf v).vdp = s.vdp := rfl
@[simp] theorem setAf_psg (v : Word) : (s.setAf v).psg = s.psg := rfl
@[simp] theorem setAf_inputs (v : Word) : (s.setAf v).inputs = s.inputs := rfl
@[simp] theorem setAf_outputs (v : Word) : (s.setAf v).outputs = s.outputs := rfl
@[simp] theorem setAf_schedule (v : Word) : (s.setAf v).schedule = s.schedule := rfl
@[simp] theorem setAf_freeDraws (v : Word) : (s.setAf v).freeDraws = s.freeDraws := rfl

/-! ### `setSp` -/

@[simp] theorem setSp_main (v : Word) : (s.setSp v).main = s.main := rfl
@[simp] theorem setSp_shadow (v : Word) : (s.setSp v).shadow = s.shadow := rfl
@[simp] theorem setSp_ixh (v : Word) : (s.setSp v).ixh = s.ixh := rfl
@[simp] theorem setSp_ixl (v : Word) : (s.setSp v).ixl = s.ixl := rfl
@[simp] theorem setSp_iyh (v : Word) : (s.setSp v).iyh = s.iyh := rfl
@[simp] theorem setSp_iyl (v : Word) : (s.setSp v).iyl = s.iyl := rfl
@[simp] theorem setSp_sp (v : Word) : (s.setSp v).sp = v := rfl
@[simp] theorem setSp_pc (v : Word) : (s.setSp v).pc = s.pc := rfl
@[simp] theorem setSp_i (v : Word) : (s.setSp v).i = s.i := rfl
@[simp] theorem setSp_r (v : Word) : (s.setSp v).r = s.r := rfl
@[simp] theorem setSp_iff1 (v : Word) : (s.setSp v).iff1 = s.iff1 := rfl
@[simp] theorem setSp_iff2 (v : Word) : (s.setSp v).iff2 = s.iff2 := rfl
@[simp] theorem setSp_im (v : Word) : (s.setSp v).im = s.im := rfl
@[simp] theorem setSp_pendingInt (v : Word) : (s.setSp v).pendingInt = s.pendingInt := rfl
@[simp] theorem setSp_pendingNmi (v : Word) : (s.setSp v).pendingNmi = s.pendingNmi := rfl
@[simp] theorem setSp_halted (v : Word) : (s.setSp v).halted = s.halted := rfl
@[simp] theorem setSp_postEi (v : Word) : (s.setSp v).postEi = s.postEi := rfl
@[simp] theorem setSp_cycles (v : Word) : (s.setSp v).cycles = s.cycles := rfl
@[simp] theorem setSp_mmu (v : Word) : (s.setSp v).mmu = s.mmu := rfl
@[simp] theorem setSp_vdp (v : Word) : (s.setSp v).vdp = s.vdp := rfl
@[simp] theorem setSp_psg (v : Word) : (s.setSp v).psg = s.psg := rfl
@[simp] theorem setSp_inputs (v : Word) : (s.setSp v).inputs = s.inputs := rfl
@[simp] theorem setSp_outputs (v : Word) : (s.setSp v).outputs = s.outputs := rfl
@[simp] theorem setSp_schedule (v : Word) : (s.setSp v).schedule = s.schedule := rfl
@[simp] theorem setSp_freeDraws (v : Word) : (s.setSp v).freeDraws = s.freeDraws := rfl

/-! ### `setPair` -/

@[simp] theorem setPair_shadow (p : Pair) (v : Word) : (s.setPair p v).shadow = s.shadow := by cases p <;> rfl
@[simp] theorem setPair_ixh (p : Pair) (v : Word) : (s.setPair p v).ixh = s.ixh := by cases p <;> rfl
@[simp] theorem setPair_ixl (p : Pair) (v : Word) : (s.setPair p v).ixl = s.ixl := by cases p <;> rfl
@[simp] theorem setPair_iyh (p : Pair) (v : Word) : (s.setPair p v).iyh = s.iyh := by cases p <;> rfl
@[simp] theorem setPair_iyl (p : Pair) (v : Word) : (s.setPair p v).iyl = s.iyl := by cases p <;> rfl
@[simp] theorem setPair_pc (p : Pair) (v : Word) : (s.setPair p v).pc = s.pc := by cases p <;> rfl
@[simp] theorem setPair_i (p : Pair) (v : Word) : (s.setPair p v).i = s.i := by cases p <;> rfl
@[simp] theorem setPair_r (p : Pair) (v : Word) : (s.setPair p v).r = s.r := by cases p <;> rfl
@[simp] theorem setPair_iff1 (p : Pair) (v : Word) : (s.setPair p v).iff1 = s.iff1 := by cases p <;> rfl
@[simp] theorem setPair_iff2 (p : Pair) (v : Word) : (s.setPair p v).iff2 = s.iff2 := by cases p <;> rfl
@[simp] theorem setPair_im (p : Pair) (v : Word) : (s.setPair p v).im = s.im := by cases p <;> rfl
@[simp] theorem setPair_pendingInt (p : Pair) (v : Word) : (s.setPair p v).pendingInt = s.pendingInt := by cases p <;> rfl
@[simp] theorem setPair_pendingNmi (p : Pair) (v : Word) : (s.setPair p v).pendingNmi = s.pendingNmi := by cases p <;> rfl
@[simp] theorem setPair_halted (p : Pair) (v : Word) : (s.setPair p v).halted = s.halted := by cases p <;> rfl
@[simp] theorem setPair_postEi (p : Pair) (v : Word) : (s.setPair p v).postEi = s.postEi := by cases p <;> rfl
@[simp] theorem setPair_cycles (p : Pair) (v : Word) : (s.setPair p v).cycles = s.cycles := by cases p <;> rfl
@[simp] theorem setPair_mmu (p : Pair) (v : Word) : (s.setPair p v).mmu = s.mmu := by cases p <;> rfl
@[simp] theorem setPair_vdp (p : Pair) (v : Word) : (s.setPair p v).vdp = s.vdp := by cases p <;> rfl
@[simp] theorem setPair_psg (p : Pair) (v : Word) : (s.setPair p v).psg = s.psg := by cases p <;> rfl
@[simp] theorem setPair_inputs (p : Pair) (v : Word) : (s.setPair p v).inputs = s.inputs := by cases p <;> rfl
@[simp] theorem setPair_outputs (p : Pair) (v : Word) : (s.setPair p v).outputs = s.outputs := by cases p <;> rfl
@[simp] theorem setPair_schedule (p : Pair) (v : Word) : (s.setPair p v).schedule = s.schedule := by cases p <;> rfl
@[simp] theorem setPair_freeDraws (p : Pair) (v : Word) : (s.setPair p v).freeDraws = s.freeDraws := by cases p <;> rfl

/-! ### `setQPair` -/

@[simp] theorem setQPair_shadow (p : QPair) (v : Word) : (s.setQPair p v).shadow = s.shadow := by cases p <;> rfl
@[simp] theorem setQPair_ixh (p : QPair) (v : Word) : (s.setQPair p v).ixh = s.ixh := by cases p <;> rfl
@[simp] theorem setQPair_ixl (p : QPair) (v : Word) : (s.setQPair p v).ixl = s.ixl := by cases p <;> rfl
@[simp] theorem setQPair_iyh (p : QPair) (v : Word) : (s.setQPair p v).iyh = s.iyh := by cases p <;> rfl
@[simp] theorem setQPair_iyl (p : QPair) (v : Word) : (s.setQPair p v).iyl = s.iyl := by cases p <;> rfl
@[simp] theorem setQPair_sp (p : QPair) (v : Word) : (s.setQPair p v).sp = s.sp := by cases p <;> rfl
@[simp] theorem setQPair_pc (p : QPair) (v : Word) : (s.setQPair p v).pc = s.pc := by cases p <;> rfl
@[simp] theorem setQPair_i (p : QPair) (v : Word) : (s.setQPair p v).i = s.i := by cases p <;> rfl
@[simp] theorem setQPair_r (p : QPair) (v : Word) : (s.setQPair p v).r = s.r := by cases p <;> rfl
@[simp] theorem setQPair_iff1 (p : QPair) (v : Word) : (s.setQPair p v).iff1 = s.iff1 := by cases p <;> rfl
@[simp] theorem setQPair_iff2 (p : QPair) (v : Word) : (s.setQPair p v).iff2 = s.iff2 := by cases p <;> rfl
@[simp] theorem setQPair_im (p : QPair) (v : Word) : (s.setQPair p v).im = s.im := by cases p <;> rfl
@[simp] theorem setQPair_pendingInt (p : QPair) (v : Word) : (s.setQPair p v).pendingInt = s.pendingInt := by cases p <;> rfl
@[simp] theorem setQPair_pendingNmi (p : QPair) (v : Word) : (s.setQPair p v).pendingNmi = s.pendingNmi := by cases p <;> rfl
@[simp] theorem setQPair_halted (p : QPair) (v : Word) : (s.setQPair p v).halted = s.halted := by cases p <;> rfl
@[simp] theorem setQPair_postEi (p : QPair) (v : Word) : (s.setQPair p v).postEi = s.postEi := by cases p <;> rfl
@[simp] theorem setQPair_cycles (p : QPair) (v : Word) : (s.setQPair p v).cycles = s.cycles := by cases p <;> rfl
@[simp] theorem setQPair_mmu (p : QPair) (v : Word) : (s.setQPair p v).mmu = s.mmu := by cases p <;> rfl
@[simp] theorem setQPair_vdp (p : QPair) (v : Word) : (s.setQPair p v).vdp = s.vdp := by cases p <;> rfl
@[simp] theorem setQPair_psg (p : QPair) (v : Word) : (s.setQPair p v).psg = s.psg := by cases p <;> rfl
@[simp] theorem setQPair_inputs (p : QPair) (v : Word) : (s.setQPair p v).inputs = s.inputs := by cases p <;> rfl
@[simp] theorem setQPair_outputs (p : QPair) (v : Word) : (s.setQPair p v).outputs = s.outputs := by cases p <;> rfl
@[simp] theorem setQPair_schedule (p : QPair) (v : Word) : (s.setQPair p v).schedule = s.schedule := by cases p <;> rfl
@[simp] theorem setQPair_freeDraws (p : QPair) (v : Word) : (s.setQPair p v).freeDraws = s.freeDraws := by cases p <;> rfl

/-! ### `setHalf` -/

@[simp] theorem setHalf_main (x : Idx) (h : Half) (v : Byte) : (s.setHalf x h v).main = s.main := by cases x <;> cases h <;> rfl
@[simp] theorem setHalf_shadow (x : Idx) (h : Half) (v : Byte) : (s.setHalf x h v).shadow = s.shadow := by cases x <;> cases h <;> rfl
@[simp] theorem setHalf_sp (x : Idx) (h : Half) (v : Byte) : (s.setHalf x h v).sp = s.sp := by cases x <;> cases h <;> rfl
@[simp] theorem setHalf_pc (x : Idx) (h : Half) (v : Byte) : (s.setHalf x h v).pc = s.pc := by cases x <;> cases h <;> rfl
@[simp] theorem setHalf_i (x : Idx) (h : Half) (v : Byte) : (s.setHalf x h v).i = s.i := by cases x <;> cases h <;> rfl
@[simp] theorem setHalf_r (x : Idx) (h : Half) (v : Byte) : (s.setHalf x h v).r = s.r := by cases x <;> cases h <;> rfl
@[simp] theorem setHalf_iff1 (x : Idx) (h : Half) (v : Byte) : (s.setHalf x h v).iff1 = s.iff1 := by cases x <;> cases h <;> rfl
@[simp] theorem setHalf_iff2 (x : Idx) (h : Half) (v : Byte) : (s.setHalf x h v).iff2 = s.iff2 := by cases x <;> cases h <;> rfl
@[simp] theorem setHalf_im (x : Idx) (h : Half) (v : Byte) : (s.setHalf x h v).im = s.im := by cases x <;> cases h <;> rfl
@[simp] theorem setHalf_pendingInt (x : Idx) (h : Half) (v : Byte) : (s.setHalf x h v).pendingInt = s.pendingInt := by cases x <;> cases h <;> rfl
@[simp] theorem setHalf_pendingNmi (x : Idx) (h : Half) (v : Byte) : (s.setHalf x h v).pendingNmi = s.pendingNmi := by cases x <;> cases h <;> rfl
@[simp] theorem setHalf_halted (x : Idx) (h : Half) (v : Byte) : (s.setHalf x h v).halted = s.halted := by cases x <;> cases h <;> rfl
@[simp] theorem setHalf_postEi (x : Idx) (h : Half) (v : Byte) : (s.setHalf x h v).postEi = s.postEi := by cases x <;> cases h <;> rfl
@[simp] theorem setHalf_cycles (x : Idx) (h : Half) (v : Byte) : (s.setHalf x h v).cycles = s.cycles := by cases x <;> cases h <;> rfl
@[simp] theorem setHalf_mmu (x : Idx) (h : Half) (v : Byte) : (s.setHalf x h v).mmu = s.mmu := by cases x <;> cases h <;> rfl
@[simp] theorem setHalf_vdp (x : Idx) (h : Half) (v : Byte) : (s.setHalf x h v).vdp = s.vdp := by cases x <;> cases h <;> rfl
@[simp] theorem setHalf_psg (x : Idx) (h : Half) (v : Byte) : (s.setHalf x h v).psg = s.psg := by cases x <;> cases h <;> rfl
@[simp] theorem setHalf_inputs (x : Idx) (h : Half) (v : Byte) : (s.setHalf x h v).inputs = s.inputs := by cases x <;> cases h <;> rfl
@[simp] theorem setHalf_outputs (x : Idx) (h : Half) (v : Byte) : (s.setHalf x h v).outputs = s.outputs := by cases x <;> cases h <;> rfl
@[simp] theorem setHalf_schedule (x : Idx) (h : Half) (v : Byte) : (s.setHalf x h v).schedule = s.schedule := by cases x <;> cases h <;> rfl
@[simp] theorem setHalf_freeDraws (x : Idx) (h : Half) (v : Byte) : (s.setHalf x h v).freeDraws = s.freeDraws := by cases x <;> cases h <;> rfl

/-! ### `setXY` -/

@[simp] theorem setXY_main (x : Idx) (v : Word) : (s.setXY x v).main = s.main := by cases x <;> rfl
@[simp] theorem setXY_shadow (x : Idx) (v : Word) : (s.setXY x v).shadow = s.shadow := by cases x <;> rfl
@[simp] theorem setXY_sp (x : Idx) (v : Word) : (s.setXY x v).sp = s.sp := by cases x <;> rfl
@[simp] theorem setXY_pc (x : Idx) (v : Word) : (s.setXY x v).pc = s.pc := by cases x <;> rfl
@[simp] theorem setXY_i (x : Idx) (v : Word) : (s.setXY x v).i = s.i := by cases x <;> rfl
@[simp] theorem setXY_r (x : Idx) (v : Word) : (s.setXY x v).r = s.r := by cases x <;> rfl
@[simp] theorem setXY_iff1 (x : Idx) (v : Word) : (s.setXY x v).iff1 = s.iff1 := by cases x <;> rfl
@[simp] theorem setXY_iff2 (x : Idx) (v : Word) : (s.setXY x v).iff2 = s.iff2 := by cases x <;> rfl
@[simp] theorem setXY_im (x : Idx) (v : Word) : (s.setXY x v).im = s.im := by cases x <;> rfl
@[simp] theorem setXY_pendingInt (x : Idx) (v : Word) : (s.setXY x v).pendingInt = s.pendingInt := by cases x <;> rfl
@[simp] theorem setXY_pendingNmi (x : Idx) (v : Word) : (s.setXY x v).pendingNmi = s.pendingNmi := by cases x <;> rfl
@[simp] theorem setXY_halted (x : Idx) (v : Word) : (s.setXY x v).halted = s.halted := by cases x <;> rfl
@[simp] theorem setXY_postEi (x : Idx) (v : Word) : (s.setXY x v).postEi = s.postEi := by cases x <;> rfl
@[simp] theorem setXY_cycles (x : Idx) (v : Word) : (s.setXY x v).cycles = s.cycles := by cases x <;> rfl
@[simp] theorem setXY_mmu (x : Idx) (v : Word) : (s.setXY x v).mmu = s.mmu := by cases x <;> rfl
@[simp] theorem setXY_vdp (x : Idx) (v : Word) : (s.setXY x v).vdp = s.vdp := by cases x <;> rfl
@[simp] theorem setXY_psg (x : Idx) (v : Word) : (s.setXY x v).psg = s.psg := by cases x <;> rfl
@[simp] theorem setXY_inputs (x : Idx) (v : Word) : (s.setXY x v).inputs = s.inputs := by cases x <;> rfl
@[simp] theorem setXY_outputs (x : Idx) (v : Word) : (s.setXY x v).outputs = s.outputs := by cases x <;> rfl
@[simp] theorem setXY_schedule (x : Idx) (v : Word) : (s.setXY x v).schedule = s.schedule := by cases x <;> rfl
@[simp] theorem setXY_freeDraws (x : Idx) (v : Word) : (s.setXY x v).freeDraws = s.freeDraws := by cases x <;> rfl

/-! ### `done` -/

@[simp] theorem done_main (len n : Nat) : (s.done len n).main = s.main := rfl
@[simp] theorem done_shadow (len n : Nat) : (s.done len n).shadow = s.shadow := rfl
@[simp] theorem done_ixh (len n : Nat) : (s.done len n).ixh = s.ixh := rfl
@[simp] theorem done_ixl (len n : Nat) : (s.done len n).ixl = s.ixl := rfl
@[simp] theorem done_iyh (len n : Nat) : (s.done len n).iyh = s.iyh := rfl
@[simp] theorem done_iyl (len n : Nat) : (s.done len n).iyl = s.iyl := rfl
@[simp] theorem done_sp (len n : Nat) : (s.done len n).sp = s.sp := rfl
@[simp] theorem done_pc (len n : Nat) : (s.done len n).pc = s.pc + BitVec.ofNat 16 len := rfl
@[simp] theorem done_i (len n : Nat) : (s.done len n).i = s.i := rfl
@[simp] theorem done_r (len n : Nat) : (s.done len n).r = s.r := rfl
@[simp] theorem done_iff1 (len n : Nat) : (s.done len n).iff1 = s.iff1 := rfl
@[simp] theorem done_iff2 (len n : Nat) : (s.done len n).iff2 = s.iff2 := rfl
@[simp] theorem done_im (len n : Nat) : (s.done len n).im = s.im := rfl
@[simp] theorem done_pendingInt (len n : Nat) : (s.done len n).pendingInt = s.pendingInt := rfl
@[simp] theorem done_pendingNmi (len n : Nat) : (s.done len n).pendingNmi = s.pendingNmi := rfl
@[simp] theorem done_halted (len n : Nat) : (s.done len n).halted = s.halted := rfl
@[simp] theorem done_postEi (len n : Nat) : (s.done len n).postEi = s.postEi := rfl
@[simp] theorem done_cycles (len n : Nat) : (s.done len n).cycles = s.cycles + n := rfl
@[simp] theorem done_mmu (len n : Nat) : (s.done len n).mmu = s.mmu := rfl
@[simp] theorem done_vdp (len n : Nat) : (s.done len n).vdp = s.vdp := rfl
@[simp] theorem done_psg (len n : Nat) : (s.done len n).psg = s.psg := rfl
@[simp] theorem done_inputs (len n : Nat) : (s.done len n).inputs = s.inputs := rfl
@[simp] theorem done_outputs (len n : Nat) : (s.done len n).outputs = s.outputs := rfl
@[simp] theorem done_schedule (len n : Nat) : (s.done len n).schedule = s.schedule := rfl
@[simp] theorem done_freeDraws (len n : Nat) : (s.done len n).freeDraws = s.freeDraws := rfl

/-! ### `jump` -/

@[simp] theorem jump_main (a : Word) (n : Nat) : (s.jump a n).main = s.main := rfl
@[simp] theorem jump_shadow (a : Word) (n : Nat) : (s.jump a n).shadow = s.shadow := rfl
@[simp] theorem jump_ixh (a : Word) (n : Nat) : (s.jump a n).ixh = s.ixh := rfl
@[simp] theorem jump_ixl (a : Word) (n : Nat) : (s.jump a n).ixl = s.ixl := rfl
@[simp] theorem jump_iyh (a : Word) (n : Nat) : (s.jump a n).iyh = s.iyh := rfl
@[simp] theorem jump_iyl (a : Word) (n : Nat) : (s.jump a n).iyl = s.iyl := rfl
@[simp] theorem jump_sp (a : Word) (n : Nat) : (s.jump a n).sp = s.sp := rfl
@[simp] theorem jump_pc (a : Word) (n : Nat) : (s.jump a n).pc = a := rfl
@[simp] theorem jump_i (a : Word) (n : Nat) : (s.jump a n).i = s.i := rfl
@[simp] theorem jump_r (a : Word) (n : Nat) : (s.jump a n).r = s.r := rfl
@[simp] theorem jump_iff1 (a : Word) (n : Nat) : (s.jump a n).iff1 = s.iff1 := rfl
@[simp] theorem jump_iff2 (a : Word) (n : Nat) : (s.jump a n).iff2 = s.iff2 := rfl
@[simp] theorem jump_im (a : Word) (n : Nat) : (s.jump a n).im = s.im := rfl
@[simp] theorem jump_pendingInt (a : Word) (n : Nat) : (s.jump a n).pendingInt = s.pendingInt := rfl
@[simp] theorem jump_pendingNmi (a : Word) (n : Nat) : (s.jump a n).pendingNmi = s.pendingNmi := rfl
@[simp] theorem jump_halted (a : Word) (n : Nat) : (s.jump a n).halted = s.halted := rfl
@[simp] theorem jump_postEi (a : Word) (n : Nat) : (s.jump a n).postEi = s.postEi := rfl
@[simp] theorem jump_cycles (a : Word) (n : Nat) : (s.jump a n).cycles = s.cycles + n := rfl
@[simp] theorem jump_mmu (a : Word) (n : Nat) : (s.jump a n).mmu = s.mmu := rfl
@[simp] theorem jump_vdp (a : Word) (n : Nat) : (s.jump a n).vdp = s.vdp := rfl
@[simp] theorem jump_psg (a : Word) (n : Nat) : (s.jump a n).psg = s.psg := rfl
@[simp] theorem jump_inputs (a : Word) (n : Nat) : (s.jump a n).inputs = s.inputs := rfl
@[simp] theorem jump_outputs (a : Word) (n : Nat) : (s.jump a n).outputs = s.outputs := rfl
@[simp] theorem jump_schedule (a : Word) (n : Nat) : (s.jump a n).schedule = s.schedule := rfl
@[simp] theorem jump_freeDraws (a : Word) (n : Nat) : (s.jump a n).freeDraws = s.freeDraws := rfl

/-! ### `bumpR` -/

@[simp] theorem bumpR_main (k : Nat) : (s.bumpR k).main = s.main := rfl
@[simp] theorem bumpR_shadow (k : Nat) : (s.bumpR k).shadow = s.shadow := rfl
@[simp] theorem bumpR_ixh (k : Nat) : (s.bumpR k).ixh = s.ixh := rfl
@[simp] theorem bumpR_ixl (k : Nat) : (s.bumpR k).ixl = s.ixl := rfl
@[simp] theorem bumpR_iyh (k : Nat) : (s.bumpR k).iyh = s.iyh := rfl
@[simp] theorem bumpR_iyl (k : Nat) : (s.bumpR k).iyl = s.iyl := rfl
@[simp] theorem bumpR_sp (k : Nat) : (s.bumpR k).sp = s.sp := rfl
@[simp] theorem bumpR_pc (k : Nat) : (s.bumpR k).pc = s.pc := rfl
@[simp] theorem bumpR_i (k : Nat) : (s.bumpR k).i = s.i := rfl
@[simp] theorem bumpR_r (k : Nat) : (s.bumpR k).r = (s.r &&& 0x80) ||| ((s.r + BitVec.ofNat 8 k) &&& 0x7F) := rfl
@[simp] theorem bumpR_iff1 (k : Nat) : (s.bumpR k).iff1 = s.iff1 := rfl
@[simp] theorem bumpR_iff2 (k : Nat) : (s.bumpR k).iff2 = s.iff2 := rfl
@[simp] theorem bumpR_im (k : Nat) : (s.bumpR k).im = s.im := rfl
@[simp] theorem bumpR_pendingInt (k : Nat) : (s.bumpR k).pendingInt = s.pendingInt := rfl
@[simp] theorem bumpR_pendingNmi (k : Nat) : (s.bumpR k).pendingNmi = s.pendingNmi := rfl
@[simp] theorem bumpR_halted (k : Nat) : (s.bumpR k).halted = s.halted := rfl
@[simp] theorem bumpR_postEi (k : Nat) : (s.bumpR k).postEi = s.postEi := rfl
@[simp] theorem bumpR_cycles (k : Nat) : (s.bumpR k).cycles = s.cycles := rfl
@[simp] theorem bumpR_mmu (k : Nat) : (s.bumpR k).mmu = s.mmu := rfl
@[simp] theorem bumpR_vdp (k : Nat) : (s.bumpR k).vdp = s.vdp := rfl
@[simp] theorem bumpR_psg (k : Nat) : (s.bumpR k).psg = s.psg := rfl
@[simp] theorem bumpR_inputs (k : Nat) : (s.bumpR k).inputs = s.inputs := rfl
@[simp] theorem bumpR_outputs (k : Nat) : (s.bumpR k).outputs = s.outputs := rfl
@[simp] theorem bumpR_schedule (k : Nat) : (s.bumpR k).schedule = s.schedule := rfl
@[simp] theorem bumpR_freeDraws (k : Nat) : (s.bumpR k).freeDraws = s.freeDraws := rfl

/-! ### `popped` -/

@[simp] theorem popped_main : s.popped.main = s.main := rfl
@[simp] theorem popped_shadow : s.popped.shadow = s.shadow := rfl
@[simp] theorem popped_ixh : s.popped.ixh = s.ixh := rfl
@[simp] theorem popped_ixl : s.popped.ixl = s.ixl := rfl
@[simp] theorem popped_iyh : s.popped.iyh = s.iyh := rfl
@[simp] theorem popped_iyl : s.popped.iyl = s.iyl := rfl
@[simp] theorem popped_sp : s.popped.sp = s.sp + 2 := rfl
@[simp] theorem popped_pc : s.popped.pc = s.pc := rfl
@[simp] theorem popped_i : s.popped.i = s.i := rfl
@[simp] theorem popped_r : s.popped.r = s.r := rfl
@[simp] theorem popped_iff1 : s.popped.iff1 = s.iff1 := rfl
@[simp] theorem popped_iff2 : s.popped.iff2 = s.iff2 := rfl
@[simp] theorem popped_im : s.popped.im = s.im := rfl
@[simp] theorem popped_pendingInt : s.popped.pendingInt = s.pendingInt := rfl
@[simp] theorem popped_pendingNmi : s.popped.pendingNmi = s.pendingNmi := rfl
@[simp] theorem popped_halted : s.popped.halted = s.halted := rfl
@[simp] theorem popped_postEi : s.popped.postEi = s.postEi := rfl
@[simp] theorem popped_cycles : s.popped.cycles = s.cycles := rfl
@[simp] theorem popped_mmu : s.popped.mmu = s.mmu := rfl
@[simp] theorem popped_vdp : s.popped.vdp = s.vdp := rfl
@[simp] theorem popped_psg : s.popped.psg = s.psg := rfl
@[simp] theorem popped_inputs : s.popped.inputs = s.inputs := rfl
@[simp] theorem popped_outputs : s.popped.outputs = s.outputs := rfl
@[simp] theorem popped_schedule : s.popped.schedule = s.schedule := rfl
@[simp] theorem popped_freeDraws : s.popped.freeDraws = s.freeDraws := rfl

end Sys2Proof.Machine.State
end

