-- ==== Sys2Proof/Laws/Registers.lean ====
section
/-! SUPPORT. Words as pairs of bytes, and the register file: reading after writing, register by register and pair by pair. -/

namespace Sys2Proof

theorem getLsbD_wordOf (h l : Byte) (i : Nat) :
    (wordOf h l).getLsbD i = if i < 8 then l.getLsbD i else h.getLsbD (i - 8) :=
  BitVec.getLsbD_append (x := h) (y := l) (i := i)

@[simp] theorem hiByte_wordOf (h l : Byte) : hiByte (wordOf h l) = h := by
  apply BitVec.eq_of_getLsbD_eq
  intro i hi
  simp [hiByte, getLsbD_wordOf, hi]

@[simp] theorem loByte_wordOf (h l : Byte) : loByte (wordOf h l) = l := by
  apply BitVec.eq_of_getLsbD_eq
  intro i hi
  simp [loByte, getLsbD_wordOf, hi]

@[simp] theorem wordOf_hiByte_loByte (v : Word) : wordOf (hiByte v) (loByte v) = v := by
  apply BitVec.eq_of_getLsbD_eq
  intro i hi
  by_cases h : i < 8
  · simp [hiByte, loByte, getLsbD_wordOf, h]
  · simp [hiByte, loByte, getLsbD_wordOf, h, show i - 8 < 8 by omega, show 8 + (i - 8) = i by omega]

theorem loByte_add (v w : Word) : loByte (v + w) = loByte v + loByte w := by
  apply BitVec.eq_of_toNat_eq
  simp [loByte, BitVec.toNat_add]

theorem wordOf_toNat (h l : Byte) : (wordOf h l).toNat = h.toNat * 256 + l.toNat := by
  simp only [wordOf, BitVec.toNat_append]
  have := l.isLt
  rw [← Nat.shiftLeft_add_eq_or_of_lt (by simpa using this)]
  simp [Nat.shiftLeft_eq]

namespace Machine

@[simp] theorem RegSet.get_set (m : RegSet) (r q : Reg8) (v : Byte) :
    (m.set r v).get q = if q = r then v else m.get q := by
  cases r <;> cases q <;> rfl

@[simp] theorem RegSet.set_f (m : RegSet) (r : Reg8) (v : Byte) : (m.set r v).f = m.f := by
  cases r <;> rfl

namespace State

variable (s : State)

@[simp] theorem getR_setR (r q : Reg8) (v : Byte) : (s.setR r v).getR q = if q = r then v else s.getR q := by
  simp [getR]

@[simp] theorem getR_setF (q : Reg8) (v : Byte) : (s.setF v).getR q = s.getR q := by
  cases q <;> rfl

@[simp] theorem bc_setBc (v : Word) : (s.setBc v).bc = v := by simp [bc]
@[simp] theorem de_setDe (v : Word) : (s.setDe v).de = v := by simp [de]
@[simp] theorem hl_setHl (v : Word) : (s.setHl v).hl = v := by simp [hl]
@[simp] theorem af_setAf (v : Word) : (s.setAf v).af = v := by simp [af]

theorem getPair_setPair (p q : Pair) (v : Word) : (s.setPair p v).getPair q = if q = p then v else s.getPair q := by
  cases p <;> cases q <;> simp [getPair, setPair, setBc, setDe, setHl, setSp, bc, de, hl]

theorem getQPair_setQPair (p q : QPair) (v : Word) :
    (s.setQPair p v).getQPair q = if q = p then v else s.getQPair q := by
  cases p <;> cases q <;> simp [getQPair, setQPair, setBc, setDe, setHl, setAf, bc, de, hl, af]

@[simp] theorem getHalf_setHalf (x y : Idx) (h k : Half) (v : Byte) :
    (s.setHalf x h v).getHalf y k = if x = y ∧ h = k then v else s.getHalf y k := by
  cases x <;> cases h <;> cases y <;> cases k <;> rfl

@[simp] theorem getXY_setXY (x y : Idx) (v : Word) : (s.setXY x v).getXY y = if x = y then v else s.getXY y := by
  cases x <;> cases y <;> simp [getXY, setXY]

theorem setXY_eq_ix (v : Word) : s.setXY .ix v = { s with ixh := hiByte v, ixl := loByte v } := rfl
theorem setXY_eq_iy (v : Word) : s.setXY .iy v = { s with iyh := hiByte v, iyl := loByte v } := rfl

/-- The refresh register keeps bit 7. -/
theorem bumpR_bit7 (k : Nat) : (s.bumpR k).r.getLsbD 7 = s.r.getLsbD 7 := by
  simp [bumpR]

end State
end Machine
end Sys2Proof
end

