-- ==== Sys2Proof/Laws/Flags.lean ====
section
/-! SUPPORT. The flags of F and what each flag computation gives, in terms of integers. -/

namespace Sys2Proof.Machine

open Sys2Proof.Safety

/-! ### The eight flags of `packFlags` -/

theorem getLsbD_packFlags : ∀ s z y h x pv n c : Bool,
    (packFlags s z y h x pv n c).getLsbD 7 = s ∧ (packFlags s z y h x pv n c).getLsbD 6 = z ∧
    (packFlags s z y h x pv n c).getLsbD 5 = y ∧ (packFlags s z y h x pv n c).getLsbD 4 = h ∧
    (packFlags s z y h x pv n c).getLsbD 3 = x ∧ (packFlags s z y h x pv n c).getLsbD 2 = pv ∧
    (packFlags s z y h x pv n c).getLsbD 1 = n ∧ (packFlags s z y h x pv n c).getLsbD 0 = c := by
  decide

section
variable (s z y h x pv n c : Bool)

@[simp] theorem flagS_packFlags : flagS (packFlags s z y h x pv n c) = s := (getLsbD_packFlags s z y h x pv n c).1
@[simp] theorem flagZ_packFlags : flagZ (packFlags s z y h x pv n c) = z := (getLsbD_packFlags s z y h x pv n c).2.1
@[simp] theorem flagY_packFlags : flagY (packFlags s z y h x pv n c) = y := (getLsbD_packFlags s z y h x pv n c).2.2.1
@[simp] theorem flagH_packFlags : flagH (packFlags s z y h x pv n c) = h := (getLsbD_packFlags s z y h x pv n c).2.2.2.1
@[simp] theorem flagX_packFlags : flagX (packFlags s z y h x pv n c) = x := (getLsbD_packFlags s z y h x pv n c).2.2.2.2.1
@[simp] theorem flagPV_packFlags : flagPV (packFlags s z y h x pv n c) = pv :=
  (getLsbD_packFlags s z y h x pv n c).2.2.2.2.2.1
@[simp] theorem flagN_packFlags : flagN (packFlags s z y h x pv n c) = n :=
  (getLsbD_packFlags s z y h x pv n c).2.2.2.2.2.2.1
@[simp] theorem flagC_packFlags : flagC (packFlags s z y h x pv n c) = c :=
  (getLsbD_packFlags s z y h x pv n c).2.2.2.2.2.2.2
end

/-- F is its eight flags. -/
theorem packFlags_flags (f : Byte) :
    packFlags (flagS f) (flagZ f) (flagY f) (flagH f) (flagX f) (flagPV f) (flagN f) (flagC f) = f := by
  revert f
  decide

/-! ### One byte -/

theorem sign_iff (v : Byte) : v.getLsbD 7 = true ↔ v.toInt < 0 := by
  revert v
  decide

theorem parity_iff (v : Byte) : parity v = true ↔ EvenOnes v := by
  revert v
  unfold EvenOnes
  decide

theorem low_nibble (v : Byte) : (v &&& 0x0F).toNat = v.toNat % 16 := by
  revert v
  decide

/-- The result flags of every computation that packs them from the result. -/
theorem resultFlags_packFlags (res : Byte) (h pv n c : Bool) :
    ResultFlags res (packFlags (res.getLsbD 7) (res == 0) (res.getLsbD 5) h (res.getLsbD 3) pv n c) := by
  refine ⟨?_, ?_, ?_, ?_⟩
  · rw [flagS_packFlags, sign_iff]
  · simp
  · simp
  · simp

theorem parityFlags_packFlags (res : Byte) (h n c : Bool) :
    ParityFlags res h n c
      (packFlags (res.getLsbD 7) (res == 0) (res.getLsbD 5) h (res.getLsbD 3) (parity res) n c) :=
  ⟨resultFlags_packFlags .., by rw [flagPV_packFlags, parity_iff], by simp, by simp, by simp⟩

theorem keepsSZP_packFlags (res : Byte) (h n c : Bool) (f : Byte) :
    KeepsSZP res h n c f
      (packFlags (flagS f) (flagZ f) (res.getLsbD 5) h (res.getLsbD 3) (flagPV f) n c) := by
  constructor <;> simp

theorem logicFlags_spec (res : Byte) (h : Bool) : ParityFlags res h false false (logicFlags res h) :=
  parityFlags_packFlags ..

/-! ### Addition and subtraction -/

theorem ofBool_toNat_byte (c : Bool) : (BitVec.ofNat 8 c.toNat).toNat = c.toNat := by
  cases c <;> rfl

theorem add8_res (a b : Byte) (c : Bool) : (add8 a b c).res = a + b + BitVec.ofNat 8 c.toNat := by
  apply BitVec.eq_of_toNat_eq
  simp [add8, BitVec.toNat_add]

theorem sub8_res (a b : Byte) (c : Bool) : (sub8 a b c).res = a - b - BitVec.ofNat 8 c.toNat := by
  apply BitVec.eq_of_toInt_eq
  have hc : (BitVec.ofNat 8 c.toNat).toInt = c.toNat := by cases c <;> rfl
  simp only [sub8, BitVec.toInt_ofInt, BitVec.toInt_sub, hc]
  rw [BitVec.toInt_eq_toNat_bmod, BitVec.toInt_eq_toNat_bmod]
  simp

theorem bit7_and (x : Byte) : ((x &&& 0x80) != 0) = x.getLsbD 7 := by
  revert x
  decide

theorem bit7_iff (x : Byte) : x.getLsbD 7 = true ↔ 128 ≤ x.toNat := by
  revert x
  decide

theorem toInt_byte (x : Byte) : x.toInt = if x.toNat < 128 then (x.toNat : Int) else (x.toNat : Int) - 256 := by
  rw [BitVec.toInt_eq_toNat_cond]
  split <;> split <;> omega

/-- The overflow test of `add8` on the sign bits. -/
theorem add_overflow (a b : Byte) (c : Bool) (r : Byte) (hr : r.toNat = (a.toNat + b.toNat + c.toNat) % 256) :
    ((((a ^^^ r) &&& (b ^^^ r) &&& 0x80) != 0) = true) ↔ Overflows8 (a.toInt + b.toInt + c.toNat) := by
  rw [bit7_and]
  simp only [BitVec.getLsbD_and, BitVec.getLsbD_xor, Bool.and_eq_true, bne_iff_ne, ne_eq]
  have ha := bit7_iff a
  have hb := bit7_iff b
  have hr7 := bit7_iff r
  have := a.isLt
  have := b.isLt
  have hc : c.toNat ≤ 1 := by cases c <;> decide
  rw [toInt_byte, toInt_byte]
  unfold Overflows8
  cases h1 : a.getLsbD 7 <;> cases h2 : b.getLsbD 7 <;> cases h3 : r.getLsbD 7 <;> simp only [h1, h2, h3] at ha hb hr7 <;>
    simp at ha hb hr7 ⊢ <;> (repeat' split) <;> omega

/-- The overflow test of `sub8` on the sign bits. -/
theorem sub_overflow (a b : Byte) (c : Bool) (r : Byte)
    (hr : (r.toNat : Int) = ((a.toNat : Int) - b.toNat - c.toNat) % 256) :
    ((((a ^^^ b) &&& (a ^^^ r) &&& 0x80) != 0) = true) ↔ Overflows8 (a.toInt - b.toInt - c.toNat) := by
  rw [bit7_and]
  simp only [BitVec.getLsbD_and, BitVec.getLsbD_xor, Bool.and_eq_true, bne_iff_ne, ne_eq]
  have ha := bit7_iff a
  have hb := bit7_iff b
  have hr7 := bit7_iff r
  have := a.isLt
  have := b.isLt
  have hc : c.toNat ≤ 1 := by cases c <;> decide
  rw [toInt_byte, toInt_byte]
  unfold Overflows8
  cases h1 : a.getLsbD 7 <;> cases h2 : b.getLsbD 7 <;> cases h3 : r.getLsbD 7 <;> simp only [h1, h2, h3] at ha hb hr7 <;>
    simp at ha hb hr7 ⊢ <;> (repeat' split) <;> omega

theorem add8_flags (a b : Byte) (c : Bool) : AddFlags a b c (add8 a b c).flags := by
  have hres := add8_res a b c
  refine ⟨hres ▸ resultFlags_packFlags .., ?_, ?_, ?_, ?_⟩
  · simp only [add8, flagH_packFlags, decide_eq_true_eq, low_nibble]
    omega
  · simp only [add8, flagPV_packFlags]
    exact add_overflow a b c _ (by simp)
  · simp [add8]
  · simp only [add8, flagC_packFlags, decide_eq_true_eq]
    omega

theorem sub8_flags (a b : Byte) (c : Bool) : SubFlags a b c (sub8 a b c).flags := by
  have hres := sub8_res a b c
  have hr := resultFlags_packFlags (sub8 a b c).res
  refine ⟨⟨?_, ?_, ?_, ?_, ?_, ?_⟩, ?_, ?_⟩
  · exact hres ▸ (hr _ _ _ _).s
  · exact hres ▸ (hr _ _ _ _).z
  · simp only [sub8, flagH_packFlags, decide_eq_true_eq, low_nibble]
    omega
  · simp only [sub8, flagPV_packFlags]
    refine sub_overflow a b c _ ?_
    rw [BitVec.toNat_ofInt]
    simp only [Nat.reducePow]
    omega
  · simp [sub8]
  · simp only [sub8, flagC_packFlags, decide_eq_true_eq]
    omega
  · exact hres ▸ (hr _ _ _ _).y
  · exact hres ▸ (hr _ _ _ _).x

theorem inc8_flags (v f : Byte) : IncFlags v f (inc8 v f).flags := by
  refine ⟨resultFlags_packFlags .., ?_, ?_, by simp [inc8], by simp [inc8]⟩
  · simp only [inc8, flagH_packFlags]
    revert v
    decide
  · simp only [inc8, flagPV_packFlags]
    revert v
    decide

theorem dec8_flags (v f : Byte) : DecFlags v f (dec8 v f).flags := by
  refine ⟨resultFlags_packFlags .., ?_, ?_, by simp [dec8], by simp [dec8]⟩
  · simp only [dec8, flagH_packFlags]
    revert v
    decide
  · simp only [dec8, flagPV_packFlags]
    revert v
    decide

/-- A compare takes Y and X from its operand. -/
theorem cp_flags (a v f : Byte) :
    SubFlagsBut a v false (AluOp.run .cp a v f).flags ∧ flagY (AluOp.run .cp a v f).flags = v.getLsbD 5 ∧
      flagX (AluOp.run .cp a v f).flags = v.getLsbD 3 := by
  have h := (sub8_flags a v false).but
  refine ⟨⟨?_, ?_, ?_, ?_, ?_, ?_⟩, ?_, ?_⟩
  · simpa [AluOp.run] using h.s
  · simpa [AluOp.run] using h.z
  · simpa [AluOp.run] using h.h
  · simpa [AluOp.run] using h.pv
  · simpa [AluOp.run] using h.n
  · simpa [AluOp.run] using h.c
  · simp [AluOp.run]
  · simp [AluOp.run]

/-! ### Sixteen bits -/

theorem bit15_iff (x : Word) : x.getLsbD 15 = true ↔ 32768 ≤ x.toNat := by
  have := BitVec.msb_eq_decide x
  rw [BitVec.msb_eq_getLsbD_last] at this
  simp only [Nat.reducePow, Nat.reduceSub] at this
  rw [this, decide_eq_true_eq]

theorem bit15_and (x : Word) : ((x &&& 0x8000) != 0) = x.getLsbD 15 := by
  have e : x &&& 0x8000 = if x.getLsbD 15 then 0x8000 else 0 := by
    apply BitVec.eq_of_getLsbD_eq
    intro i hi
    by_cases h : i = 15
    · subst h
      cases hx : x.getLsbD 15 <;> simp_all
    · have : (0x8000 : Word).getLsbD i = false := by
        revert h
        revert i
        decide
      rw [BitVec.getLsbD_and, this, Bool.and_false]
      split
      · exact this.symm
      · simp
  rw [e]
  cases x.getLsbD 15 <;> decide

theorem toInt_word (x : Word) : x.toInt = if x.toNat < 32768 then (x.toNat : Int) else (x.toNat : Int) - 65536 := by
  rw [BitVec.toInt_eq_toNat_cond]
  split <;> split <;> omega

theorem low_twelve (v : Word) : (v &&& 0x0FFF).toNat = v.toNat % 4096 := by
  rw [BitVec.toNat_and]
  exact Nat.and_two_pow_sub_one_eq_mod v.toNat 12

theorem sign16_iff (v : Word) : v.getLsbD 15 = true ↔ v.toInt < 0 := by
  rw [bit15_iff, toInt_word]
  have := v.isLt
  split <;> omega

theorem add16_overflow (a b : Word) (c : Bool) (r : Word) (hr : r.toNat = (a.toNat + b.toNat + c.toNat) % 65536) :
    ((((a ^^^ r) &&& (b ^^^ r) &&& 0x8000) != 0) = true) ↔ Overflows16 (a.toInt + b.toInt + c.toNat) := by
  rw [bit15_and]
  simp only [BitVec.getLsbD_and, BitVec.getLsbD_xor, Bool.and_eq_true, bne_iff_ne, ne_eq]
  have ha := bit15_iff a
  have hb := bit15_iff b
  have hr7 := bit15_iff r
  have := a.isLt
  have := b.isLt
  have hc : c.toNat ≤ 1 := by cases c <;> decide
  rw [toInt_word, toInt_word]
  unfold Overflows16
  cases h1 : a.getLsbD 15 <;> cases h2 : b.getLsbD 15 <;> cases h3 : r.getLsbD 15 <;>
    simp only [h1, h2, h3] at ha hb hr7 <;> simp at ha hb hr7 ⊢ <;> (repeat' split) <;> omega

theorem sub16_overflow (a b : Word) (c : Bool) (r : Word)
    (hr : (r.toNat : Int) = ((a.toNat : Int) - b.toNat - c.toNat) % 65536) :
    ((((a ^^^ b) &&& (a ^^^ r) &&& 0x8000) != 0) = true) ↔ Overflows16 (a.toInt - b.toInt - c.toNat) := by
  rw [bit15_and]
  simp only [BitVec.getLsbD_and, BitVec.getLsbD_xor, Bool.and_eq_true, bne_iff_ne, ne_eq]
  have ha := bit15_iff a
  have hb := bit15_iff b
  have hr7 := bit15_iff r
  have := a.isLt
  have := b.isLt
  have hc : c.toNat ≤ 1 := by cases c <;> decide
  rw [toInt_word, toInt_word]
  unfold Overflows16
  cases h1 : a.getLsbD 15 <;> cases h2 : b.getLsbD 15 <;> cases h3 : r.getLsbD 15 <;>
    simp only [h1, h2, h3] at ha hb hr7 <;> simp at ha hb hr7 ⊢ <;> (repeat' split) <;> omega

theorem add16_res (a b : Word) (f : Byte) : (add16 a b f).res = a + b := by
  apply BitVec.eq_of_toNat_eq
  simp [add16, BitVec.toNat_add]

theorem adc16_res (a b : Word) (c : Bool) : (adc16 a b c).res = a + b + BitVec.ofNat 16 c.toNat := by
  apply BitVec.eq_of_toNat_eq
  simp [adc16, BitVec.toNat_add]

theorem sbc16_res (a b : Word) (c : Bool) : (sbc16 a b c).res = a - b - BitVec.ofNat 16 c.toNat := by
  apply BitVec.eq_of_toInt_eq
  have hc : (BitVec.ofNat 16 c.toNat).toInt = c.toNat := by cases c <;> rfl
  simp only [sbc16, BitVec.toInt_ofInt, BitVec.toInt_sub, hc]
  rw [BitVec.toInt_eq_toNat_bmod, BitVec.toInt_eq_toNat_bmod]
  simp

theorem add16_flags (a b : Word) (f : Byte) :
    KeepsSZP (hiByte (a + b)) (decide (4096 ≤ a.toNat % 4096 + b.toNat % 4096)) false
      (decide (65536 ≤ a.toNat + b.toNat)) f (add16 a b f).flags := by
  rw [← add16_res a b f]
  refine ⟨?_, ?_, ?_, ?_, ?_, ?_, ?_, ?_⟩
  · simp [add16]
  · simp [add16]
  · simp [add16]
  · simp [add16, hiByte]
  · simp [add16, hiByte]
  · simp only [add16, flagH_packFlags, low_twelve]
    exact decide_eq_decide.2 (by omega)
  · simp [add16]
  · simp only [add16, flagC_packFlags]
    exact decide_eq_decide.2 (by omega)

theorem adc16_flags (a b : Word) (c : Bool) :
    WideFlags (a + b + BitVec.ofNat 16 c.toNat) (decide (4096 ≤ a.toNat % 4096 + b.toNat % 4096 + c.toNat)) false
      (decide (65536 ≤ a.toNat + b.toNat + c.toNat)) (Overflows16 (a.toInt + b.toInt + c.toNat)) (adc16 a b c).flags := by
  rw [← adc16_res]
  refine ⟨?_, ?_, ?_, ?_, ?_, ?_, ?_, ?_⟩
  · rw [← sign16_iff]; simp [adc16]
  · simp [adc16]
  · simp [adc16]
  · simp [adc16]
  · simp only [adc16, flagH_packFlags, low_twelve]
    exact decide_eq_decide.2 (by omega)
  · simp only [adc16, flagPV_packFlags]
    exact add16_overflow a b c _ (by simp)
  · simp [adc16]
  · simp only [adc16, flagC_packFlags]
    exact decide_eq_decide.2 (by omega)

theorem sbc16_flags (a b : Word) (c : Bool) :
    WideFlags (a - b - BitVec.ofNat 16 c.toNat) (decide (a.toNat % 4096 < b.toNat % 4096 + c.toNat)) true
      (decide (a.toNat < b.toNat + c.toNat)) (Overflows16 (a.toInt - b.toInt - c.toNat)) (sbc16 a b c).flags := by
  rw [← sbc16_res]
  refine ⟨?_, ?_, ?_, ?_, ?_, ?_, ?_, ?_⟩
  · rw [← sign16_iff]; simp [sbc16]
  · simp [sbc16]
  · simp [sbc16]
  · simp [sbc16]
  · simp only [sbc16, flagH_packFlags, low_twelve]
    exact decide_eq_decide.2 (by omega)
  · simp only [sbc16, flagPV_packFlags]
    refine sub16_overflow a b c _ ?_
    rw [BitVec.toNat_ofInt]
    simp only [Nat.reducePow]
    omega
  · simp [sbc16]
  · simp only [sbc16, flagC_packFlags]
    exact decide_eq_decide.2 (by omega)

/-! ### Rotates and bits -/

theorem rot_res (op : RotOp) (v : Byte) (c : Bool) : (op.res v c).toNat = rotated op v.toNat c.toNat := by
  cases op <;> cases c <;> revert v <;> decide

theorem rot_carry (op : RotOp) (v : Byte) : op.carry v = movedOut op v := by
  cases op <;> revert v <;> decide

theorem rot_run (op : RotOp) (v f : Byte) : Rotated op v f (op.run v f).res (op.run v f).flags :=
  ⟨rot_res .., rot_carry op v ▸ parityFlags_packFlags ..⟩

theorem rot_runAcc (op : RotOp) (v f : Byte) :
    KeepsSZP (op.runAcc v f).res false false (movedOut op v) f (op.runAcc v f).flags :=
  rot_carry op v ▸ keepsSZP_packFlags ..

theorem testBit_byte (v : Byte) (b : BitVec 3) : v.getLsbD b.toNat = decide (v.toNat / 2 ^ b.toNat % 2 = 1) := by
  rw [BitVec.getLsbD, Nat.testBit_eq_decide_div_mod_eq]

theorem bitFlags_spec (b : BitVec 3) (v yx f : Byte) : BitFlags b v yx f (bitFlags b v yx f) := by
  have hm : v.toNat / 2 ^ b.toNat % 2 = 0 ∨ v.toNat / 2 ^ b.toNat % 2 = 1 := by omega
  refine ⟨?_, ?_, ?_, ?_, ?_, ?_, ?_, ?_⟩
  · simp only [bitFlags, flagZ_packFlags, testBit_byte]
    rcases hm with h | h <;> simp [h]
  · simp [bitFlags]
  · simp only [bitFlags, flagS_packFlags, Bool.and_eq_true, decide_eq_true_eq]
    constructor
    · rintro ⟨rfl, h⟩
      exact ⟨rfl, (bit7_iff v).1 h⟩
    · rintro ⟨rfl, h⟩
      exact ⟨rfl, (bit7_iff v).2 h⟩
  all_goals simp [bitFlags]

theorem setBit_made (b : BitVec 3) (v f : Byte) : BitMade b true v (setBit b v f).res := by
  have h : ∀ (b : BitVec 3) (k : Fin 8), (bitMask b).getLsbD k = decide (k.1 = b.toNat) := by decide
  intro k hk
  simp only [setBit, BitVec.getLsbD_or, h b ⟨k, hk⟩]
  by_cases e : k = b.toNat <;> simp [e]

theorem resBit_made (b : BitVec 3) (v f : Byte) : BitMade b false v (resBit b v f).res := by
  have h : ∀ (b : BitVec 3) (k : Fin 8), (bitMask b).getLsbD k = decide (k.1 = b.toNat) := by decide
  intro k hk
  simp only [resBit, BitVec.getLsbD_and, BitVec.getLsbD_not, h b ⟨k, hk⟩]
  by_cases e : k = b.toNat <;> simp [e, hk]

/-! ### Digits, decimal adjustment -/

theorem digits_toNat (a b : BitVec 4) : (a ++ b).toNat = a.toNat * 16 + b.toNat := by
  revert a b
  decide

theorem highDigit_toNat (v : Byte) : (v.extractLsb' 4 4).toNat = v.toNat / 16 := by
  revert v
  decide

theorem lowDigit_toNat (v : Byte) : (v.extractLsb' 0 4).toNat = v.toNat % 16 := by
  revert v
  decide

/-- `DAA` in terms of integers. -/
theorem daa_res (a f : Byte) :
    let corr := (if flagH f ∨ 9 < a.toNat % 16 then 0x06 else 0) + (if flagC f ∨ 0x99 < a.toNat then 0x60 else 0)
    (daa a f).res.toNat = (if flagN f then a.toNat + 256 - corr else a.toNat + corr) % 256 := by
  simp only [daa]
  cases flagN f <;> cases flagH f <;> cases flagC f <;> revert a <;> decide

theorem daa_flags (a f : Byte) :
    ParityFlags (daa a f).res (if flagN f then flagH f && decide (a.toNat % 16 < 6) else decide (9 < a.toNat % 16)) (flagN f)
      (flagC f || decide (0x99 < a.toNat)) (daa a f).flags := by
  have h : ∀ a : Byte, decide ((a &&& 0x0F) < 6) = decide (a.toNat % 16 < 6) ∧
      decide (9 < (a &&& 0x0F)) = decide (9 < a.toNat % 16) ∧ decide (0x99 < a) = decide (0x99 < a.toNat) := by decide
  rw [← (h a).1, ← (h a).2.1, ← (h a).2.2]
  exact parityFlags_packFlags ..

/-! ### Block instructions, input and output -/

theorem blockMoveFlags_spec (a v : Byte) (bc : Word) (f : Byte) : MoveFlags (a + v) bc f (blockMoveFlags a v bc f) := by
  constructor <;> simp [blockMoveFlags]

theorem lt_low_nibble (a v : Byte) : (a &&& 0x0F) < (v &&& 0x0F) ↔ a.toNat % 16 < v.toNat % 16 := by
  rw [BitVec.lt_def, low_nibble, low_nibble]

theorem blockSearchFlags_spec (a v : Byte) (bc : Word) (f : Byte) :
    SearchFlags a v bc f (blockSearchFlags a v bc f) := by
  refine ⟨?_, ?_, ?_, ?_, ?_, ?_, ⟨_, rfl, ?_, ?_⟩⟩
  · simp only [blockSearchFlags, flagS_packFlags]
    exact sign_iff _
  · simp only [blockSearchFlags, flagZ_packFlags, beq_iff_eq]
    exact sub_eq_zero
  · simp only [blockSearchFlags, flagH_packFlags, decide_eq_true_eq]
    exact lt_low_nibble a v
  · simp [blockSearchFlags]
  · simp [blockSearchFlags]
  · simp [blockSearchFlags]
  · simp only [blockSearchFlags, flagY_packFlags, flagH_packFlags]
    by_cases h : (a &&& 0x0F) < (v &&& 0x0F)
    · simp only [h, decide_true, if_true]; rfl
    · simp only [h, decide_false, Bool.false_eq_true, if_false]; rfl
  · simp only [blockSearchFlags, flagX_packFlags, flagH_packFlags]
    by_cases h : (a &&& 0x0F) < (v &&& 0x0F)
    · simp only [h, decide_true, if_true]; rfl
    · simp only [h, decide_false, Bool.false_eq_true, if_false]; rfl

theorem ioFlags_spec (v : Byte) (k : Nat) (b : Byte) : IoFlags v k b (ioFlags v k b) := by
  refine ⟨resultFlags_packFlags .., ?_, ?_, ?_, ?_⟩
  · simp only [ioFlags, flagN_packFlags]
    exact bit7_iff v
  · simp only [ioFlags, flagH_packFlags, decide_eq_true_eq]
    omega
  · simp only [ioFlags, flagC_packFlags, decide_eq_true_eq]
    omega
  · simp only [ioFlags, flagPV_packFlags]
    exact parity_iff _

end Sys2Proof.Machine
end

