-- ==== Sys2Proof/Laws/Memory.lean ====
section
/-! SUPPORT. The laws of a memory held as a list of cells: reading after writing, that every operation keeps the canonical form and the
size, what a memory made of cells reads as, and the length of a cartridge. -/

namespace Sys2Proof.Machine.Memory

theorem read_insert (m : Memory) (a b : Nat) (v : Byte) :
    (Memory.insert m a v).read b = if b = a then v else Memory.read m b := by
  induction m with
  | nil => simp [Memory.insert, Memory.read]
  | cons c m ih =>
    obtain ⟨k, w⟩ := c
    simp only [Memory.insert]
    split
    · simp [Memory.read]
    · split
      · subst_vars
        by_cases h : b = k <;> simp [Memory.read, h]
      · rename_i h1 h2
        simp only [Memory.read, ih]
        by_cases h : b = k
        · simp [h, Ne.symm h2]
        · simp [h]

theorem read_erase (m : Memory) (a b : Nat) :
    (Memory.erase m a).read b = if b = a then Config.unlistedByte else Memory.read m b := by
  induction m with
  | nil => simp [Memory.erase, Memory.read]
  | cons c m ih =>
    obtain ⟨k, w⟩ := c
    simp only [Memory.erase] at ih ⊢
    by_cases hk : k = a
    · subst hk
      rw [List.filter_cons_of_neg (by simp), ih]
      by_cases h : b = k <;> simp [Memory.read, h]
    · rw [List.filter_cons_of_pos (by simpa using hk)]
      simp only [Memory.read, ih]
      by_cases h : b = k
      · simp [h, hk]
      · simp [h]

/-- Reading after a write. -/
@[simp] theorem read_write (m : Memory) (a b : Nat) (v : Byte) :
    (Memory.write m a v).read b = if b = a then v else Memory.read m b := by
  unfold Memory.write
  split
  · next h => rw [read_erase, h]
  · exact read_insert m a b v

theorem mem_insert {m : Memory} {a : Nat} {v : Byte} {c : Host.Cell} (h : c ∈ Memory.insert m a v) :
    c = (a, v) ∨ c ∈ m := by
  induction m with
  | nil => simpa [Memory.insert] using h
  | cons d m ih =>
    simp only [Memory.insert] at h
    split at h
    · simpa using h
    · split at h
      · rcases List.mem_cons.1 h with h | h
        · exact .inl h
        · exact .inr (List.mem_cons_of_mem _ h)
      · rcases List.mem_cons.1 h with h | h
        · exact .inr (h ▸ List.mem_cons_self)
        · exact (ih h).imp_right (List.mem_cons_of_mem _)

theorem mem_write {m : Memory} {a : Nat} {v : Byte} {c : Host.Cell} (h : c ∈ Memory.write m a v) :
    (c = (a, v) ∧ v ≠ Config.unlistedByte) ∨ c ∈ m := by
  unfold Memory.write at h
  split at h
  · exact .inr (List.mem_of_mem_filter h)
  · next hv => exact (mem_insert h).imp_left (⟨·, hv⟩)

theorem insert_rising {m : Memory} {a : Nat} {v : Byte} (h : m.Pairwise (fun x y => x.1 < y.1)) :
    (Memory.insert m a v).Pairwise (fun x y => x.1 < y.1) := by
  induction m with
  | nil => simp [Memory.insert]
  | cons d m ih =>
    rw [List.pairwise_cons] at h
    simp only [Memory.insert]
    split
    · next h1 =>
      refine List.pairwise_cons.2 ⟨fun c hc => ?_, List.pairwise_cons.2 h⟩
      rcases List.mem_cons.1 hc with rfl | hc
      · exact h1
      · exact Nat.lt_trans h1 (h.1 c hc)
    · split
      · next h1 =>
        exact List.pairwise_cons.2 ⟨fun c hc => by simpa [h1] using h.1 c hc, h.2⟩
      · next h1 h2 =>
        refine List.pairwise_cons.2 ⟨fun c hc => ?_, ih h.2⟩
        rcases mem_insert hc with rfl | hc
        · show d.1 < a
          omega
        · exact h.1 c hc

/-- A write keeps the canonical form. -/
theorem write_wf {m : Memory} (h : m.wf) (a : Nat) (v : Byte) : (Memory.write m a v).wf := by
  refine ⟨?_, fun c hc => ?_⟩
  · unfold Memory.write
    split
    · exact h.1.filter _
    · exact insert_rising h.1
  · rcases mem_write hc with ⟨rfl, hv⟩ | hc
    · exact hv
    · exact h.2 c hc

/-- A write below the size keeps every cell below the size. -/
theorem write_below {m : Memory} {n a : Nat} (h : m.below n) (ha : a < n) (v : Byte) : (Memory.write m a v).below n := by
  intro c hc
  rcases mem_write hc with ⟨rfl, _⟩ | hc
  · exact ha
  · exact h c hc

theorem empty_wf : Memory.wf [] := ⟨List.Pairwise.nil, by simp⟩

theorem empty_below (n : Nat) : Memory.below [] n := by simp

/-- Two memories in canonical form that read alike everywhere are equal. -/
theorem ext_of_wf {m n : Memory} (hm : m.wf) (hn : n.wf) (h : ∀ a, Memory.read m a = Memory.read n a) : m = n := by
  have below : ∀ {l : Memory} {k : Nat}, (∀ c ∈ l, k < c.1) → Memory.read l k = Config.unlistedByte := by
    intro l k hl
    induction l with
    | nil => rfl
    | cons c l ih =>
      have h1 := hl c List.mem_cons_self
      obtain ⟨j, w⟩ := c
      simp only [Memory.read, if_neg (Nat.ne_of_lt h1)]
      exact ih fun c hc => hl c (List.mem_cons_of_mem _ hc)
  induction m generalizing n with
  | nil =>
    cases n with
    | nil => rfl
    | cons d n =>
      have := h d.1
      simp only [Memory.read, if_pos] at this
      exact absurd this.symm (hn.2 d List.mem_cons_self)
  | cons c m ih =>
    have hc := List.pairwise_cons.1 hm.1
    have wfm : Memory.wf m := ⟨hc.2, fun x hx => hm.2 x (List.mem_cons_of_mem _ hx)⟩
    cases n with
    | nil =>
      have := h c.1
      simp only [Memory.read, if_pos] at this
      exact absurd this (hm.2 c List.mem_cons_self)
    | cons d n =>
      have hd := List.pairwise_cons.1 hn.1
      have wfn : Memory.wf n := ⟨hd.2, fun x hx => hn.2 x (List.mem_cons_of_mem _ hx)⟩
      have hkeys : c.1 = d.1 := by
        rcases Nat.lt_trichotomy c.1 d.1 with hlt | heq | hlt
        · have e := h c.1
          have : Memory.read (d :: n) c.1 = Config.unlistedByte := below fun x hx => by
            rcases List.mem_cons.1 hx with rfl | hx
            · exact hlt
            · exact Nat.lt_trans hlt (hd.1 x hx)
          rw [this] at e
          simp only [Memory.read, if_pos] at e
          exact absurd e (hm.2 c List.mem_cons_self)
        · exact heq
        · have e := h d.1
          have : Memory.read (c :: m) d.1 = Config.unlistedByte := below fun x hx => by
            rcases List.mem_cons.1 hx with rfl | hx
            · exact hlt
            · exact Nat.lt_trans hlt (hc.1 x hx)
          rw [this] at e
          simp only [Memory.read, if_pos] at e
          exact absurd e.symm (hn.2 d List.mem_cons_self)
      obtain ⟨k, v⟩ := c
      obtain ⟨j, w⟩ := d
      simp only at hkeys hc hd
      subst hkeys
      have hv : v = w := by simpa [Memory.read] using h k
      subst hv
      congr 1
      refine ih wfm wfn fun a => ?_
      by_cases ha : a = k
      · subst ha
        rw [below hc.1, below hd.1]
      · simpa [Memory.read, ha] using h a

/-- A memory made of cells reads as they say, below its size. -/
theorem read_ofCells (size : Nat) (l : List Host.Cell) {a : Nat} (ha : a < size) :
    (Memory.ofCells size l).read a = Memory.read l a := by
  induction l with
  | nil => rfl
  | cons c l ih =>
    obtain ⟨k, v⟩ := c
    simp only [Memory.ofCells, Memory.read]
    split
    · rw [read_write, ih]
    · next h => rw [ih, if_neg (by omega)]

/-- A memory made of cells is in canonical form, whatever the cells. -/
theorem ofCells_wf (size : Nat) (l : List Host.Cell) : (Memory.ofCells size l).wf := by
  induction l with
  | nil => exact empty_wf
  | cons c l ih =>
    obtain ⟨k, v⟩ := c
    simp only [Memory.ofCells]
    split
    · exact write_wf ih k v
    · exact ih

/-- A memory made of cells fits in its size, whatever the cells. -/
theorem ofCells_below (size : Nat) (l : List Host.Cell) : (Memory.ofCells size l).below size := by
  induction l with
  | nil => exact empty_below size
  | cons c l ih =>
    obtain ⟨k, v⟩ := c
    simp only [Memory.ofCells]
    split
    · next h => exact write_below ih h v
    · exact ih

/-- A memory in canonical form reads as unlisted past its size. -/
theorem read_past {m : Memory} {n a : Nat} (h : m.below n) (ha : n ≤ a) : Memory.read m a = Config.unlistedByte := by
  induction m with
  | nil => rfl
  | cons c m ih =>
    obtain ⟨k, v⟩ := c
    have hk : k < n := h (k, v) List.mem_cons_self
    simp only [Memory.read, if_neg (show ¬ a = k by omega)]
    exact ih fun c hc => h c (List.mem_cons_of_mem _ hc)

/-- A memory in canonical form that fits is what its own cells make. -/
theorem ofCells_of_wf {m : Memory} {size : Nat} (hw : m.wf) (hb : m.below size) : Memory.ofCells size m = m := by
  refine ext_of_wf (ofCells_wf size m) hw fun a => ?_
  by_cases ha : a < size
  · exact read_ofCells size m ha
  · rw [read_past (ofCells_below size m) (Nat.le_of_not_lt ha), read_past hb (Nat.le_of_not_lt ha)]

end Sys2Proof.Machine.Memory

namespace Sys2Proof.Machine.Rom

variable (r : Rom)

/-- The bank count is the length in banks, and there are at least three (R82). -/
@[simp] theorem bankCount_eq : r.bankCount = 3 + r.moreBanks := Nat.mul_div_cancel _ (by decide)

theorem three_le_bankCount : 3 ≤ r.bankCount := by rw [bankCount_eq]; omega

@[simp] theorem length_load (off : Nat) (v : Byte) : (r.load off v).length = r.length := rfl
@[simp] theorem bankCount_load (off : Nat) (v : Byte) : (r.load off v).bankCount = r.bankCount := rfl
@[simp] theorem read_load (a b : Nat) (v : Byte) : (r.load a v).read b = if b = a then v else r.read b := by
  simp [load, read]

@[simp] theorem length_normal : r.normal.length = r.length := rfl
@[simp] theorem bankCount_normal : r.normal.bankCount = r.bankCount := rfl
theorem read_normal {a : Nat} (h : a < r.length) : r.normal.read a = r.read a := Memory.read_ofCells r.length r.cells h

end Sys2Proof.Machine.Rom
end

