-- ==== Sys2Proof/Laws/Mmu.lean ====
section
/-! SUPPORT. What one store through the MMU can do, and that it keeps the MMU's invariant. -/

namespace Sys2Proof.Machine.Mmu

open Sys2Proof.Safety

@[simp] theorem bankCount_putSysRam (m : Mmu) (a : Nat) (v : Byte) : (m.putSysRam a v).bankCount = m.bankCount := rfl
@[simp] theorem bankCount_putCartRam (m : Mmu) (a : Nat) (v : Byte) : (m.putCartRam a v).bankCount = m.bankCount := rfl
@[simp] theorem bankCount_setMapperControl (m : Mmu) (v : Byte) : (m.setMapperControl v).bankCount = m.bankCount := rfl
@[simp] theorem bankCount_setMapperSlot (m : Mmu) (k : Nat) (v : Byte) : (m.setMapperSlot k v).bankCount = m.bankCount := by
  unfold setMapperSlot
  split <;> rfl

theorem three_le_bankCount (m : Mmu) : 3 ≤ m.bankCount := m.rom.three_le_bankCount

theorem unsupportedControl_iff (v : Byte) :
    unsupportedControl v = true ↔ (v.getLsbD 4 = true ∨ v.getLsbD 1 = true ∨ v.getLsbD 0 = true) := by
  revert v
  decide

@[simp] theorem readPlace_putSysRam (m : Mmu) (a : Nat) (v : Byte) (p : Place) :
    (m.putSysRam a v).readPlace p = if p = .sysRam (a % 0x2000) then v else m.readPlace p := by
  cases p <;> simp [putSysRam, readPlace]

@[simp] theorem readPlace_putCartRam (m : Mmu) (a : Nat) (v : Byte) (p : Place) :
    (m.putCartRam a v).readPlace p =
      if p = .cartRam (m.ramBank.toNat * 0x4000 + (a - 0x8000)) then v else m.readPlace p := by
  cases p <;> simp [putCartRam, readPlace]

@[simp] theorem readPlace_setMapperSlot (m : Mmu) (k : Nat) (v : Byte) (p : Place) :
    (m.setMapperSlot k v).readPlace p = m.readPlace p := by
  unfold setMapperSlot
  split <;> cases p <;> rfl

@[simp] theorem readPlace_setMapperControl (m : Mmu) (v : Byte) (p : Place) :
    (m.setMapperControl v).readPlace p = m.readPlace p := by
  cases p <;> rfl

theorem place_high {m : Mmu} {a : Word} (h : 0xC000 ≤ a.toNat) : m.place a = .sysRam (a.toNat % 0x2000) := by
  unfold place
  simp only [show ¬ a.toNat ≤ 0x03FF by omega, show ¬ a.toNat ≤ 0x3FFF by omega, show ¬ a.toNat ≤ 0x7FFF by omega,
    show ¬ a.toNat ≤ 0xBFFF by omega, if_false]

theorem place_window {m : Mmu} {a : Word} (h1 : 0x8000 ≤ a.toNat) (h2 : a.toNat < 0xC000) :
    m.place a = if m.ramEnable then .cartRam (m.ramBank.toNat * 0x4000 + (a.toNat - 0x8000))
      else .rom (m.slot2 * 0x4000 + (a.toNat - 0x8000)) := by
  unfold place
  simp only [show ¬ a.toNat ≤ 0x03FF by omega, show ¬ a.toNat ≤ 0x3FFF by omega, show ¬ a.toNat ≤ 0x7FFF by omega,
    show a.toNat ≤ 0xBFFF by omega, if_false, if_true]

theorem place_low {m : Mmu} {a : Word} (h : a.toNat < 0x8000) : ¬ IsRam (m.place a) := by
  unfold place
  simp only [show a.toNat ≤ 0x7FFF by omega, if_true]
  split
  · simp [IsRam]
  · split <;> simp [IsRam]

/-- Where the mapping fields agree, an address names the same cell. -/
theorem place_congr {m n : Mmu} (h0 : n.slot0 = m.slot0) (h1 : n.slot1 = m.slot1) (h2 : n.slot2 = m.slot2)
    (he : n.ramEnable = m.ramEnable) (hb : n.ramBank = m.ramBank) (a : Word) : n.place a = m.place a := by
  simp only [place, h0, h1, h2, he, hb]

/-- The address frame follows from the cell frame. -/
theorem reads_of_cells {m n : Mmu} {a : Word} {v : Byte} (hp : ∀ b, n.place b = m.place b)
    (hit : IsRam (m.place a) → n.readPlace (m.place a) = v)
    (cells : ∀ p, p ≠ m.place a ∨ ¬ IsRam (m.place a) → n.readPlace p = m.readPlace p) (b : Word) :
    n.read b = m.read b ∨ (m.place b = m.place a ∧ IsRam (m.place a) ∧ n.read b = v) := by
  by_cases hr : IsRam (m.place a)
  · by_cases he : m.place b = m.place a
    · exact .inr ⟨he, hr, by rw [read, hp, he, hit hr]⟩
    · exact .inl (by rw [read, read, hp, cells _ (.inl he)])
  · exact .inl (by rw [read, read, hp, cells _ (.inr hr)])

theorem toNat_eq_iff {a : Word} {n : Nat} (h : n < 65536) : a.toNat = n ↔ a = BitVec.ofNat 16 n := by
  constructor
  · intro e
    apply BitVec.eq_of_toNat_eq
    simp [e, Nat.mod_eq_of_lt h]
  · rintro rfl
    simp [Nat.mod_eq_of_lt h]

/-- A store that faults. -/
theorem write_fault {m : Mmu} {a : Word} {v : Byte} (h : StoreFaults m a v) :
    m.write a v = .error (.unsupportedMapperControl v) := by
  obtain ⟨hm, rfl, hv⟩ := h
  unfold write
  simp [hm, (unsupportedControl_iff v).2 hv]

/-- `StoreEffect` without its last clause, which follows from the others. -/
theorem effect_of {m n : Mmu} {a : Word} {v : Byte}
    (hit : IsRam (m.place a) → n.readPlace (m.place a) = v)
    (cells : ∀ p, p ≠ m.place a ∨ ¬ IsRam (m.place a) → n.readPlace p = m.readPlace p)
    (s0 : n.slot0 = if slotRegister m a = some 0 then v.toNat % m.bankCount else m.slot0)
    (s1 : n.slot1 = if slotRegister m a = some 1 then v.toNat % m.bankCount else m.slot1)
    (s2 : n.slot2 = if slotRegister m a = some 2 then v.toNat % m.bankCount else m.slot2)
    (en : IsControl m a → n.ramEnable = v.getLsbD 3 ∧ n.ramBank = v.getLsbD 2)
    (ne : ¬ IsControl m a → n.ramEnable = m.ramEnable ∧ n.ramBank = m.ramBank)
    (ct : n.rom = m.rom ∧ n.bankCount = m.bankCount ∧ n.mapper = m.mapper) : StoreEffect m n a v where
  hit := hit
  cells := cells
  slot0 := s0
  slot1 := s1
  slot2 := s2
  enable := en
  noEnable := ne
  cartridge := ct
  reads hs hc b := by
    simp only [hs] at s0 s1 s2
    exact reads_of_cells (place_congr (by simpa using s0) (by simpa using s1) (by simpa using s2) (ne hc).1 (ne hc).2) hit cells b

/-- A store that changes no cell: ROM or a mapper register below 0xC000. -/
theorem cells_same {m n : Mmu} (h1 : n.rom = m.rom) (h2 : n.sysRam = m.sysRam) (h3 : n.cartRam = m.cartRam) (p : Place) :
    n.readPlace p = m.readPlace p := by
  cases p <;> simp only [readPlace, h1, h2, h3]

theorem high_ne {a : Word} (h : 0xC000 ≤ a.toNat) :
    a ≠ 0x0000 ∧ a ≠ 0x4000 ∧ a ≠ 0x8000 ∧ a ≠ 0xA000 := by
  refine ⟨?_, ?_, ?_, ?_⟩ <;> rintro rfl <;> exact absurd h (by decide)

theorem low_ne {a : Word} (h : a.toNat < 0xC000) :
    a ≠ 0xFFFC ∧ a ≠ 0xFFFD ∧ a ≠ 0xFFFE ∧ a ≠ 0xFFFF := by
  refine ⟨?_, ?_, ?_, ?_⟩ <;> rintro rfl <;> exact absurd h (by decide)

/-- A store that does not fault, and everything it can do. -/
theorem write_effect {m : Mmu} {a : Word} {v : Byte} (h : ¬ StoreFaults m a v) :
    ∃ n, m.write a v = .ok n ∧ StoreEffect m n a v := by
  by_cases hi : 0xC000 ≤ a.toNat
  · have hp := place_high (m := m) hi
    have hne := high_ne hi
    have hit : ∀ n : Mmu, (∀ p, n.readPlace p = (m.putSysRam a.toNat v).readPlace p) →
        (IsRam (m.place a) → n.readPlace (m.place a) = v) ∧
          (∀ p, p ≠ m.place a ∨ ¬ IsRam (m.place a) → n.readPlace p = m.readPlace p) := by
      intro n hn
      refine ⟨fun _ => by simp [hn, hp], fun p h => ?_⟩
      rw [hp] at h
      simp only [IsRam, not_true_eq_false, or_false] at h
      simp [hn, h]
    cases hm : m.mapper with
    | sega =>
      by_cases e0 : a = 0xFFFC
      · have hc : unsupportedControl v = false := by
          rw [← Bool.not_eq_true, unsupportedControl_iff]
          exact fun hv => h ⟨hm, e0, hv⟩
        refine ⟨(m.putSysRam a.toNat v).setMapperControl v, ?_, ?_⟩
        · subst e0; simp [write, hm, hc]
        · refine effect_of (hit _ (by simp)).1 (hit _ (by simp)).2 ?_ ?_ ?_ ?_ ?_ ⟨rfl, rfl, rfl⟩
          all_goals simp [slotRegister, IsControl, hm, e0, setMapperControl, putSysRam]
      · have e0' : a.toNat ≠ 65532 := fun e => e0 ((toNat_eq_iff (by decide)).1 e)
        by_cases e1 : a = 0xFFFD
        · refine ⟨(m.putSysRam a.toNat v).setMapperSlot 0 v, ?_, ?_⟩
          · subst e1; simp [write, hm]
          · refine effect_of (hit _ (by simp)).1 (hit _ (by simp)).2 ?_ ?_ ?_ ?_ ?_ ⟨rfl, rfl, rfl⟩
            all_goals simp [slotRegister, IsControl, hm, e1, setMapperSlot, putSysRam, bankCount]
        · have e1' : a.toNat ≠ 65533 := fun e => e1 ((toNat_eq_iff (by decide)).1 e)
          by_cases e2 : a = 0xFFFE
          · refine ⟨(m.putSysRam a.toNat v).setMapperSlot 1 v, ?_, ?_⟩
            · subst e2; simp [write, hm]
            · refine effect_of (hit _ (by simp)).1 (hit _ (by simp)).2 ?_ ?_ ?_ ?_ ?_ ⟨rfl, rfl, rfl⟩
              all_goals simp [slotRegister, IsControl, hm, e2, setMapperSlot, putSysRam, bankCount]
          · have e2' : a.toNat ≠ 65534 := fun e => e2 ((toNat_eq_iff (by decide)).1 e)
            by_cases e3 : a = 0xFFFF
            · refine ⟨(m.putSysRam a.toNat v).setMapperSlot 2 v, ?_, ?_⟩
              · subst e3; simp [write, hm]
              · refine effect_of (hit _ (by simp)).1 (hit _ (by simp)).2 ?_ ?_ ?_ ?_ ?_ ⟨rfl, rfl, rfl⟩
                all_goals simp [slotRegister, IsControl, hm, e3, setMapperSlot, putSysRam, bankCount]
            · have e3' : a.toNat ≠ 65535 := fun e => e3 ((toNat_eq_iff (by decide)).1 e)
              refine ⟨m.putSysRam a.toNat v, ?_, ?_⟩
              · simp [write, hm, hi, e0', e1', e2', e3']
              · refine effect_of (hit _ (by simp)).1 (hit _ (by simp)).2 ?_ ?_ ?_ ?_ ?_ ⟨rfl, rfl, rfl⟩
                all_goals clear hit; simp_all [slotRegister, IsControl, putSysRam]
    | codemasters =>
      refine ⟨m.putSysRam a.toNat v, by simp [write, hm, hi], ?_⟩
      refine effect_of (hit _ (by simp)).1 (hit _ (by simp)).2 ?_ ?_ ?_ ?_ ?_ ⟨rfl, rfl, rfl⟩
      all_goals clear hit; simp_all [slotRegister, IsControl, putSysRam]
    | korean =>
      refine ⟨m.putSysRam a.toNat v, by simp [write, hm, hi], ?_⟩
      refine effect_of (hit _ (by simp)).1 (hit _ (by simp)).2 ?_ ?_ ?_ ?_ ?_ ⟨rfl, rfl, rfl⟩
      all_goals clear hit; simp_all [slotRegister, IsControl, putSysRam]
  · have hl := low_ne (Nat.lt_of_not_le hi)
    have e8 : a.toNat = 0x8000 ↔ a = 0x8000 := toNat_eq_iff (by decide)
    have eA : a.toNat = 0xA000 ↔ a = 0xA000 := toNat_eq_iff (by decide)
    have e0 : a.toNat = 0x0000 ↔ a = 0x0000 := toNat_eq_iff (by decide)
    have e4 : a.toNat = 0x4000 ↔ a = 0x4000 := toNat_eq_iff (by decide)
    by_cases hw : 0x8000 ≤ a.toNat
    · have hp := place_window (m := m) hw (Nat.lt_of_not_le hi)
      have n0 : a ≠ 0x0000 := fun e => by rw [← e0] at e; omega
      have n4 : a ≠ 0x4000 := fun e => by rw [← e4] at e; omega
      by_cases hr : m.ramEnable = true
      · simp only [hr, if_true] at hp
        refine ⟨m.putCartRam a.toNat v, by simp [write, hi, hw, hr], ?_⟩
        refine effect_of (by simp [hp]) (fun p h => ?_) ?_ ?_ ?_ ?_ ?_ ⟨rfl, rfl, rfl⟩
        · rw [hp] at h
          simp only [IsRam, not_true_eq_false, or_false] at h
          simp [h]
        all_goals cases hm : m.mapper <;> simp_all [slotRegister, IsControl, putCartRam]
      · simp only [Bool.not_eq_true] at hr
        simp only [hr, Bool.false_eq_true, if_false] at hp
        have nr : ¬ IsRam (m.place a) := by simp [hp, IsRam]
        by_cases hb : (m.mapper = .codemasters ∧ a = 0x8000) ∨ (m.mapper = .korean ∧ a = 0xA000)
        · refine ⟨m.setMapperSlot 2 v, ?_, ?_⟩
          · rcases hb with ⟨hm, rfl⟩ | ⟨hm, rfl⟩ <;> simp [write, hm, hr]
          · refine effect_of (fun h => absurd h nr) (fun p _ => by simp) ?_ ?_ ?_ ?_ ?_ ⟨rfl, rfl, rfl⟩
            all_goals rcases hb with ⟨hm, rfl⟩ | ⟨hm, rfl⟩ <;> simp [slotRegister, IsControl, hm, hr, setMapperSlot]
        · have hb1 : ¬ (m.mapper = .codemasters ∧ a = 0x8000) := fun e => hb (.inl e)
          have hb2 : ¬ (m.mapper = .korean ∧ a = 0xA000) := fun e => hb (.inr e)
          refine ⟨m, ?_, ?_⟩
          · simp only [write, hi, hw, hr, e8, eA, hb1, hb2, if_false, if_true, Bool.false_eq_true]
          · refine effect_of (fun h => absurd h nr) (fun p _ => rfl) ?_ ?_ ?_ ?_ ?_ ⟨rfl, rfl, rfl⟩
            all_goals cases hm : m.mapper <;> simp_all [slotRegister, IsControl]
    · have nr := place_low (m := m) (Nat.lt_of_not_le hw)
      have n8 : a ≠ 0x8000 := fun e => by rw [← e8] at e; omega
      have nA : a ≠ 0xA000 := fun e => by rw [← eA] at e; omega
      by_cases h0 : m.mapper = .codemasters ∧ a = 0x0000
      · refine ⟨m.setMapperSlot 0 v, ?_, ?_⟩
        · obtain ⟨hm, rfl⟩ := h0; simp [write, hm]
        · refine effect_of (fun h => absurd h nr) (fun p _ => by simp) ?_ ?_ ?_ ?_ ?_ ⟨rfl, rfl, rfl⟩
          all_goals obtain ⟨hm, rfl⟩ := h0; simp [slotRegister, IsControl, hm, setMapperSlot]
      · by_cases h4 : m.mapper = .codemasters ∧ a = 0x4000
        · refine ⟨m.setMapperSlot 1 v, ?_, ?_⟩
          · obtain ⟨hm, rfl⟩ := h4; simp [write, hm]
          · refine effect_of (fun h => absurd h nr) (fun p _ => by simp) ?_ ?_ ?_ ?_ ?_ ⟨rfl, rfl, rfl⟩
            all_goals obtain ⟨hm, rfl⟩ := h4; simp [slotRegister, IsControl, hm, setMapperSlot]
        · refine ⟨m, ?_, ?_⟩
          · simp only [write, hi, hw, e0, e4, h0, h4, if_false]
          · refine effect_of (fun h => absurd h nr) (fun p _ => rfl) ?_ ?_ ?_ ?_ ?_ ⟨rfl, rfl, rfl⟩
            all_goals cases hm : m.mapper <;> simp_all [slotRegister, IsControl]

end Sys2Proof.Machine.Mmu
end

