-- ==== Sys2Proof/Laws/Ops.lean ====
section
/-! SUPPORT. What each shared operation over memory and the stack can do: a store faults or leaves everything but the MMU alone, a push is
two stores. Each comes in two forms: the outcome as an equation (`…_spec`), and what follows from a next state (`…_next`). -/

namespace Sys2Proof

namespace Machine

open Sys2Proof.Safety

@[simp] theorem andThen_next (s : State) (k : State → Result) : andThen (.next s) k = k s := rfl
@[simp] theorem andThen_fault (r : Fault) (k : State → Result) : andThen (.fault r) k = .fault r := rfl
@[simp] theorem andThen_refused (r : Refusal) (k : State → Result) : andThen (.refused r) k = .refused r := rfl

theorem andThen_eq_next {o : Result} {k : State → Result} {t : State} (h : andThen o k = .next t) :
    ∃ s, o = .next s ∧ k s = .next t := by
  cases o with
  | next s => exact ⟨s, rfl, h⟩
  | fault r => cases h
  | refused r => cases h

/-- The fault condition depends on the mapper alone. -/
theorem storeFaults_congr {m n : Mmu} (h : n.mapper = m.mapper) (a : Word) (v : Byte) :
    StoreFaults n a v ↔ StoreFaults m a v := by
  simp only [StoreFaults, h]

end Machine

namespace Safety

open Sys2Proof.Machine

/-- A store that does not fault, followed by `k`. -/
theorem StoresByte.andThen {o : Result} {m : Mmu} {a : Word} {v : Byte} {s t : State} {k : State → Result}
    (h : StoresByte o m a v s) (hk : ∀ n, k { s with mmu := n } = .next { t with mmu := n }) :
    StoresByte (Machine.andThen o k) m a v t := by
  refine ⟨fun f => by rw [h.1 f]; rfl, fun f => ?_⟩
  obtain ⟨n, e, ho⟩ := h.2 f
  exact ⟨n, e, by rw [ho, andThen_next, hk]⟩

/-- Two stores in a row, followed by `k`. -/
theorem StoresTwo.andThen {o : Result} {m : Mmu} {a b : Word} {v w : Byte} {s t : State} {k : State → Result}
    (h : StoresTwo o m a v b w s) (hk : ∀ n, k { s with mmu := n } = .next { t with mmu := n }) :
    StoresTwo (Machine.andThen o k) m a v b w t := by
  refine ⟨fun f => by rw [h.1 f]; rfl, fun f g => by rw [h.2.1 f g]; rfl, fun f g => ?_⟩
  obtain ⟨n1, n2, e1, e2, ho⟩ := h.2.2 f g
  exact ⟨n1, n2, e1, e2, by rw [ho, andThen_next, hk]⟩

end Safety

namespace Machine

open Sys2Proof.Safety

namespace State

variable (s : State)

theorem write_next {a : Word} {v : Byte} {t : State} (h : s.write a v = .next t) :
    ∃ n, s.mmu.write a v = .ok n ∧ t = { s with mmu := n } := by
  unfold write at h
  split at h
  · next n e => cases h; exact ⟨n, e, rfl⟩
  · cases h

/-- One store. -/
theorem write_spec (a : Word) (v : Byte) : StoresByte (s.write a v) s.mmu a v s := by
  refine ⟨fun f => by simp only [write, Mmu.write_fault f], fun f => ?_⟩
  obtain ⟨n, e, he⟩ := Mmu.write_effect f
  exact ⟨n, he, by simp only [write, e]⟩

/-- Two stores, the second over the MMU that the first leaves. -/
theorem write_write_spec {f : State → State} {a b : Word} {v w : Byte}
    (hm : ∀ t, (f t).mmu = t.mmu) (hf : ∀ n m, { f { s with mmu := n } with mmu := m } = { f s with mmu := m }) :
    StoresTwo (andThen (s.write a v) fun t => (f t).write b w) s.mmu a v b w (f s) := by
  refine ⟨fun h => by rw [(s.write_spec a v).1 h]; rfl, fun h g => ?_, fun h g => ?_⟩
  all_goals
    obtain ⟨n, e, ho⟩ := (s.write_spec a v).2 h
    have hn : StoreFaults n b w ↔ StoreFaults s.mmu b w := storeFaults_congr e.cartridge.2.2 b w
    have h2 := (f { s with mmu := n }).write_spec b w
    rw [hm] at h2
    rw [ho, andThen_next]
  · exact h2.1 (hn.2 g)
  · obtain ⟨n2, e2, ho2⟩ := h2.2 (fun x => g (hn.1 x))
    exact ⟨n, n2, e, e2, by rw [ho2, hf]⟩

/-- A two-byte store: low byte first. -/
theorem write16_spec (a v : Word) :
    StoresTwo (s.write16 a v) s.mmu a (v.extractLsb' 0 8) (a + 1) (v.extractLsb' 8 8) s :=
  s.write_write_spec (f := id) (fun _ => rfl) (fun _ _ => rfl)

/-- A push: SP is 2 lower. -/
theorem push16_spec (v : Word) : Pushes (s.push16 v) s.mmu s.sp v { s with sp := s.sp - 2 } := by
  have h := { s with sp := s.sp - 1 }.write_write_spec (f := fun t => { t with sp := s.sp - 2 })
    (a := s.sp - 1) (v := hiByte v) (b := s.sp - 2) (w := loByte v) (fun _ => rfl) (fun _ _ => rfl)
  have e : s.sp - 1 - 1 = s.sp - 2 := by
    rw [BitVec.sub_sub]; rfl
  have h' : s.push16 v = andThen ({ s with sp := s.sp - 1 }.write (s.sp - 1) (hiByte v)) fun t =>
      { t with sp := s.sp - 2 }.write (s.sp - 2) (loByte v) := by
    unfold push16
    cases hw : { s with sp := s.sp - 1 }.write (s.sp - 1) (hiByte v) with
    | next t =>
      obtain ⟨n, _, rfl⟩ := write_next _ hw
      simp only [andThen_next, e]
    | fault r => rfl
    | refused r => rfl
  rw [h']
  exact h

theorem write16_next {a v : Word} {t : State} (h : s.write16 a v = .next t) :
    ∃ n1 n2, s.mmu.write a (loByte v) = .ok n1 ∧ n1.write (a + 1) (hiByte v) = .ok n2 ∧ t = { s with mmu := n2 } := by
  obtain ⟨u, h1, h2⟩ := andThen_eq_next h
  obtain ⟨n1, e1, rfl⟩ := s.write_next h1
  obtain ⟨n2, e2, rfl⟩ := write_next _ h2
  exact ⟨n1, n2, e1, e2, rfl⟩

theorem push16_next {v : Word} {t : State} (h : s.push16 v = .next t) :
    ∃ n1 n2, s.mmu.write (s.sp - 1) (hiByte v) = .ok n1 ∧ n1.write (s.sp - 2) (loByte v) = .ok n2 ∧
      t = { s with sp := s.sp - 2, mmu := n2 } := by
  have e : s.sp - 1 - 1 = s.sp - 2 := by
    rw [BitVec.sub_sub]; rfl
  obtain ⟨u, h1, h2⟩ := andThen_eq_next h
  obtain ⟨n1, e1, rfl⟩ := write_next _ h1
  obtain ⟨n2, e2, rfl⟩ := write_next _ h2
  simp only [e] at e2
  exact ⟨n1, n2, e1, e2, by simp only [e]⟩

/-- No store is refused. -/
theorem write_not_refused (a : Word) (v : Byte) (r : Refusal) : s.write a v ≠ .refused r := by
  unfold write
  split <;> simp

end State

end Machine

end Sys2Proof
end

