-- ==== Sys2Proof/Laws/Operands.lean ====
section
/-! SUPPORT. What each operand form can do, once for all the instructions that use it: stores, read-modify-writes, register operations,
calls, block iterations. -/

namespace Sys2Proof.Machine

open Sys2Proof.Safety

theorem hl_low (s : State) : s.hl.extractLsb' 0 8 = s.main.l := loByte_wordOf _ _
theorem hl_high (s : State) : s.hl.extractLsb' 8 8 = s.main.h := hiByte_wordOf _ _
theorem getXY_low (s : State) (x : Idx) : (s.getXY x).extractLsb' 0 8 = s.getHalf x .lo := loByte_wordOf _ _
theorem getXY_high (s : State) (x : Idx) : (s.getXY x).extractLsb' 8 8 = s.getHalf x .hi := hiByte_wordOf _ _

namespace State

variable (s : State)

theorem storeThen_spec (a : Word) (v : Byte) (len n : Nat) :
    StoresByte (s.storeThen a v len n) s.mmu a v (past s len n) :=
  StoresByte.andThen (s.write_spec a v) fun _ => rfl

theorem store16Then_spec (a v : Word) (len n : Nat) :
    StoresTwo (s.store16Then a v len n) s.mmu a (v.extractLsb' 0 8) (a + 1) (v.extractLsb' 8 8) (past s len n) :=
  StoresTwo.andThen (s.write16_spec a v) fun _ => rfl

theorem modifyMem_spec (a : Word) (g : Byte → Byte → Out8) (len n : Nat) (P : Byte → Byte → Byte → Prop)
    (h : ∀ v, P v (g v s.main.f).res (g v s.main.f).flags) :
    ∃ r f, P (s.read a) r f ∧
      StoresByte (s.modifyMem a g len n) s.mmu a r { past s len n with main := copied s.main none r f } :=
  ⟨_, _, h _, StoresByte.andThen (s.write_spec a _) fun _ => rfl⟩

theorem modifyMemCopy_spec (a : Word) (q : Reg8) (g : Byte → Byte → Out8) (len n : Nat) (P : Byte → Byte → Byte → Prop)
    (h : ∀ v, P v (g v s.main.f).res (g v s.main.f).flags) :
    ∃ r f, P (s.read a) r f ∧
      StoresByte (s.modifyMemCopy a q g len n) s.mmu a r { past s len n with main := copied s.main (some q) r f } :=
  ⟨_, _, h _, StoresByte.andThen (s.write_spec a _) fun _ => by cases q <;> rfl⟩

theorem modifyR_spec (q : Reg8) (g : Byte → Byte → Out8) (len n : Nat) (P : Byte → Byte → Prop)
    (h : P (g (s.main.get q) s.main.f).res (g (s.main.get q) s.main.f).flags) :
    ∃ r f, P r f ∧ s.modifyR q g len n = .next { past s len n with main := { s.main with f := f }.set q r } :=
  ⟨_, _, h, by cases q <;> rfl⟩

theorem modifyHalf_spec (x : Idx) (k : Half) (g : Byte → Byte → Out8) (len n : Nat) (P : Byte → Byte → Prop)
    (h : P (g (s.getHalf x k) s.main.f).res (g (s.getHalf x k) s.main.f).flags) :
    ∃ r f, P r f ∧
      s.modifyHalf x k g len n = .next ({ past s len n with main := { s.main with f := f } }.setHalf x k r) :=
  ⟨_, _, h, by cases x <;> cases k <;> rfl⟩

theorem aluThen_spec (op : AluOp) (v : Byte) (len n : Nat) :
    s.aluThen op v len n = .next { past s len n with
      main := { s.main with a := (op.run s.main.a v s.main.f).res, f := (op.run s.main.a v s.main.f).flags } } :=
  rfl

theorem call_spec (target : Word) (len n : Nat) :
    Pushes (s.call target len n) s.mmu s.sp (s.pc + BitVec.ofNat 16 len) { sentTo s target n with sp := s.sp - 2 } :=
  StoresTwo.andThen (s.push16_spec _) fun _ => rfl

theorem repeatIf_spec (again : Bool) : s.repeatIf again = iterated s again := rfl

theorem blockMove_spec (step : Word) :
    StoresByte (s.blockMove step) s.mmu s.de (s.read s.hl)
      (transferred s step (blockMoveFlags s.main.a (s.read s.hl) (s.bc - 1) s.main.f)) := by
  refine StoresByte.andThen (s.write_spec s.de (s.read s.hl)) fun n => ?_
  have h : ((({ s with mmu := n }.setHl (s.hl + step)).setDe (s.de + step)).setBc (s.bc - 1)).bc = s.bc - 1 := bc_setBc _ _
  exact congrArg (fun b => Host.Outcome.next (((({ s with mmu := n }.setHl (s.hl + step)).setDe (s.de + step)).setBc
    (s.bc - 1)).setF (blockMoveFlags s.main.a (s.read s.hl) b s.main.f))) h

theorem blockSearch_spec (step : Word) :
    s.blockSearch step = searched s step (blockSearchFlags s.main.a (s.read s.hl) (s.bc - 1) s.main.f) :=
  congrArg (fun b => ((s.setHl (s.hl + step)).setBc (s.bc - 1)).setF (blockSearchFlags s.main.a (s.read s.hl) b s.main.f))
    (bc_setBc (s.setHl (s.hl + step)) (s.bc - 1))

@[simp] theorem bc_transferred (step : Word) (f : Byte) : (transferred s step f).bc = s.bc - 1 :=
  bc_setBc ((s.setHl (s.hl + step)).setDe (s.de + step)) (s.bc - 1)

@[simp] theorem bc_searched (step : Word) (f : Byte) : (searched s step f).bc = s.bc - 1 :=
  bc_setBc (s.setHl (s.hl + step)) (s.bc - 1)

end State

end Sys2Proof.Machine
end

