-- ==== Sys2Proof/Laws/Ports.lean ====
section
/-! SUPPORT. What a port access can change: a read changes the VDP and the CPU's request, a write the VDP and the PSG, and neither looks at
the registers or the memories. -/

namespace Sys2Proof.Machine.State

open Sys2Proof.Safety

variable (s : State)

/-- All a port read can do. -/
theorem portRead_changes (p : Byte) : ∃ v b, (s.portRead p).2 = { s with vdp := v, pendingInt := b } := by
  unfold portRead vdpRead
  (repeat' split) <;> exact ⟨_, _, rfl⟩

/-- All a port write can do. -/
theorem portWrite_changes (p v : Byte) : ∃ d q, s.portWrite p v = { s with vdp := d, psg := q } := by
  unfold portWrite
  (repeat' split) <;> exact ⟨_, _, rfl⟩

@[simp] theorem portRead_main (p : Byte) : (s.portRead p).2.main = s.main := by
  obtain ⟨v, b, h⟩ := s.portRead_changes p
  rw [h]

@[simp] theorem portRead_mmu (p : Byte) : (s.portRead p).2.mmu = s.mmu := by
  obtain ⟨v, b, h⟩ := s.portRead_changes p
  rw [h]

@[simp] theorem portWrite_main (p v : Byte) : (s.portWrite p v).main = s.main := by
  obtain ⟨d, q, h⟩ := s.portWrite_changes p v
  rw [h]

/-- A port write does not look at the registers. -/
theorem portWrite_with_main (p v : Byte) (m : RegSet) :
    { s with main := m }.portWrite p v = { s.portWrite p v with main := m } := by
  unfold portWrite
  (repeat' split) <;> rfl

/-- One iteration of a block input, but for its end. -/
theorem blockIn_spec (step : Word) :
    StoresByte (s.blockIn step) s.mmu s.hl (s.portRead s.main.c).1
      (counted (s.portRead s.main.c).2 step (ioFlags (s.portRead s.main.c).1
        ((s.portRead s.main.c).1.toNat + (s.main.c + loByte step).toNat) (s.main.b - 1))) := by
  obtain ⟨v, b, h⟩ := s.portRead_changes s.main.c
  unfold blockIn
  simp only [h]
  exact StoresByte.andThen ({ s with vdp := v, pendingInt := b }.write_spec s.hl _) fun _ => rfl

/-- One iteration of a block output, but for its end. -/
theorem blockOut_spec (step : Word) :
    s.blockOut step = counted (s.portWrite s.main.c (s.read s.hl)) step
      (ioFlags (s.read s.hl) ((s.read s.hl).toNat + (loByte (s.hl + step)).toNat) (s.main.b - 1)) := by
  obtain ⟨d, q, h⟩ := s.portWrite_changes s.main.c (s.read s.hl)
  unfold blockOut counted
  have h1 := s.portWrite_with_main s.main.c (s.read s.hl) (s.main.set .b (s.main.b - 1))
  simp only [setR, RegSet.set] at h1 ⊢
  rw [h1, h]
  rfl

@[simp] theorem b_counted (step : Word) (f : Byte) : (counted s step f).main.b = s.main.b - 1 := rfl

end Sys2Proof.Machine.State
end

