-- ==== Sys2Proof/Laws/Exec.lean ====
section
/-! SUPPORT. Everything any instruction can do outside its own result: how it can end, what it leaves alone, where it leaves PC, what it
costs. One lemma for each shared shape, then one for each constructor. -/

namespace Sys2Proof.Machine

open Sys2Proof.Safety

/-- The instructions that can leave PC elsewhere than after their own bytes: jumps, calls, returns and restarts (R401 to R417), and the
repeating block instructions (R246, R250, R434, R441). -/
def mayTurn : Instr → Bool
  | .jpNn _ | .jpCcNn _ _ | .jrE _ | .jrCE _ | .jrNcE _ | .jrZE _ | .jrNzE _ | .djnzE _ | .jpHl | .jpIx | .jpIy
  | .callNn _ | .callCcNn _ _ | .ret | .retCc _ | .reti | .retn | .retnMirror _ | .rstP _
  | .ldir | .lddr | .cpir | .cpdr | .inir | .indr | .otir | .otdr => true
  | _ => false

/-- MMUs that stores lead to. -/
inductive Stores : Mmu → Mmu → Prop
  | refl (m : Mmu) : Stores m m
  | step {m n n' : Mmu} (a : Word) (v : Byte) : Stores m n → n.write a v = .ok n' → Stores m n'

theorem Stores.one {m n : Mmu} {a : Word} {v : Byte} (h : m.write a v = .ok n) : Stores m n := .step a v (.refl m) h

theorem Stores.two {m n n' : Mmu} {a b : Word} {v w : Byte} (h : m.write a v = .ok n) (h' : n.write b w = .ok n') :
    Stores m n' := .step b w (.one h) h'

/-- A store changes no cartridge. -/
theorem Stores.cartridge {m n : Mmu} (h : Stores m n) :
    n.rom = m.rom ∧ n.bankCount = m.bankCount ∧ n.mapper = m.mapper := by
  induction h with
  | refl => exact ⟨rfl, rfl, rfl⟩
  | @step n n' a v _ h ih =>
    by_cases f : StoreFaults n a v
    · rw [Mmu.write_fault f] at h
      cases h
    · obtain ⟨k, e, he⟩ := Mmu.write_effect f
      rw [e] at h
      cases h
      exact ⟨he.cartridge.1.trans ih.1, he.cartridge.2.1.trans ih.2.1, he.cartridge.2.2.trans ih.2.2⟩

/-- The VDPs one port access leads to. -/
inductive VdpAccess (v : Vdp) : Vdp → Prop
  | none : VdpAccess v v
  | control (x : Byte) : VdpAccess v (v.controlWrite x)
  | data (x : Byte) : VdpAccess v (v.dataWrite x)
  | read : VdpAccess v v.dataRead.2
  | status : VdpAccess v v.statusRead.2

/-- What every instruction leaves alone or changes in one way only, outside the CPU's registers. -/
structure Around (s t : State) : Prop where
  mmu      : Stores s.mmu t.mmu
  vdp      : VdpAccess s.vdp t.vdp
  psg      : t.psg = s.psg ∨ ∃ v, t.psg = s.psg.write v s.cycles
  int      : t.pendingInt = true → s.pendingInt = true
  nmi      : t.pendingNmi = s.pendingNmi
  inputs   : t.inputs = s.inputs
  outputs  : t.outputs = s.outputs
  schedule : t.schedule = s.schedule

/-- The control state is as before. -/
structure Control (s t : State) : Prop where
  i      : t.i = s.i
  r      : t.r = s.r
  iff1   : t.iff1 = s.iff1
  iff2   : t.iff2 = s.iff2
  im     : t.im = s.im
  halted : t.halted = s.halted
  postEi : t.postEi = s.postEi
  shadow : t.shadow = s.shadow

/-- An outcome that is a next state meeting `P` or the mapper-control fault. -/
def Ends (s : State) (P : State → Prop) : Result → Prop
  | .next t => P t
  | .fault f => s.mmu.mapper = .sega ∧ ∃ v, f = .unsupportedMapperControl v ∧
      (v.getLsbD 4 = true ∨ v.getLsbD 1 = true ∨ v.getLsbD 0 = true)
  | .refused _ => False

theorem Ends.mono {s : State} {P Q : State → Prop} {o : Result} (h : Ends s P o) (hq : ∀ t, P t → Q t) : Ends s Q o := by
  cases o with
  | next t => exact hq t h
  | fault f => exact h
  | refused r => exact h

theorem Ends.andThen {s : State} {P Q : State → Prop} {o : Result} {k : State → Result} (h : Ends s P o)
    (hk : ∀ t, P t → Ends s Q (k t)) : Ends s Q (Machine.andThen o k) := by
  cases o with
  | next t => exact hk t h
  | fault f => exact h
  | refused r => exact h

/-- An instruction that goes on to the next one: PC past its `len` bytes, `n` cycles. -/
structure Plain (s : State) (len n : Nat) (t : State) : Prop where
  around  : Around s t
  control : Control s t
  pc      : t.pc = s.pc + BitVec.ofNat 16 len
  cycles  : t.cycles = s.cycles + n

/-- An instruction that may go elsewhere. -/
structure Turns (s t : State) : Prop where
  around  : Around s t
  control : Control s t
  cycles  : s.cycles + 4 ≤ t.cycles ∧ t.cycles ≤ s.cycles + 23

/-- Nothing but the main registers, IX, IY, SP and the free draws is touched. -/
structure Same (s t : State) : Prop where
  around  : Around s t
  control : Control s t
  pc      : t.pc = s.pc
  cycles  : t.cycles = s.cycles

theorem Around.refl (s : State) : Around s s := ⟨.refl _, .none, .inl rfl, id, rfl, rfl, rfl, rfl⟩
theorem Control.refl (s : State) : Control s s := ⟨rfl, rfl, rfl, rfl, rfl, rfl, rfl, rfl⟩
theorem Same.refl (s : State) : Same s s := ⟨.refl s, .refl s, rfl, rfl⟩

section
variable {s t : State}

theorem Same.main (h : Same s t) (m : RegSet) : Same s { t with main := m } :=
  ⟨⟨h.around.mmu, h.around.vdp, h.around.psg, h.around.int, h.around.nmi, h.around.inputs, h.around.outputs,
    h.around.schedule⟩, ⟨h.control.i, h.control.r, h.control.iff1, h.control.iff2, h.control.im, h.control.halted,
    h.control.postEi, h.control.shadow⟩, h.pc, h.cycles⟩

theorem Same.setR (h : Same s t) (r : Reg8) (v : Byte) : Same s (t.setR r v) := h.main _
theorem Same.setA (h : Same s t) (v : Byte) : Same s (t.setA v) := h.main _
theorem Same.setF (h : Same s t) (v : Byte) : Same s (t.setF v) := h.main _
theorem Same.setHl (h : Same s t) (v : Word) : Same s (t.setHl v) := h.main _
theorem Same.setDe (h : Same s t) (v : Word) : Same s (t.setDe v) := h.main _
theorem Same.setBc (h : Same s t) (v : Word) : Same s (t.setBc v) := h.main _

theorem Same.setSp (h : Same s t) (v : Word) : Same s { t with sp := v } :=
  ⟨⟨h.around.mmu, h.around.vdp, h.around.psg, h.around.int, h.around.nmi, h.around.inputs, h.around.outputs,
    h.around.schedule⟩, ⟨h.control.i, h.control.r, h.control.iff1, h.control.iff2, h.control.im, h.control.halted,
    h.control.postEi, h.control.shadow⟩, h.pc, h.cycles⟩

theorem Same.setHalf (h : Same s t) (x : Idx) (k : Half) (v : Byte) : Same s (t.setHalf x k v) := by
  cases x <;> cases k <;>
    exact ⟨⟨h.around.mmu, h.around.vdp, h.around.psg, h.around.int, h.around.nmi, h.around.inputs, h.around.outputs,
      h.around.schedule⟩, ⟨h.control.i, h.control.r, h.control.iff1, h.control.iff2, h.control.im, h.control.halted,
      h.control.postEi, h.control.shadow⟩, h.pc, h.cycles⟩

theorem Same.setXY (h : Same s t) (x : Idx) (v : Word) : Same s (t.setXY x v) := (h.setHalf ..).setHalf ..

theorem Same.setPair (h : Same s t) (p : Pair) (v : Word) : Same s (t.setPair p v) := by
  cases p
  exacts [h.main _, h.main _, h.main _, h.setSp _]

theorem Same.setQPair (h : Same s t) (p : QPair) (v : Word) : Same s (t.setQPair p v) := by
  cases p <;> exact h.main _

theorem Same.setPlain (h : Same s t) (r : PlainReg) (v : Byte) : Same s (t.setPlain r v) := by
  cases r <;> exact h.main _

theorem Same.draw (h : Same s t) (n : Nat) : Same s { t with freeDraws := n } :=
  ⟨⟨h.around.mmu, h.around.vdp, h.around.psg, h.around.int, h.around.nmi, h.around.inputs, h.around.outputs,
    h.around.schedule⟩, ⟨h.control.i, h.control.r, h.control.iff1, h.control.iff2, h.control.im, h.control.halted,
    h.control.postEi, h.control.shadow⟩, h.pc, h.cycles⟩

theorem Same.popped (h : Same s t) : Same s t.popped := h.setSp _

theorem Same.done (h : Same s t) (len n : Nat) : Ends s (Plain s len n) (.next (t.done len n)) :=
  ⟨⟨h.around.mmu, h.around.vdp, h.around.psg, h.around.int, h.around.nmi, h.around.inputs, h.around.outputs,
    h.around.schedule⟩, ⟨h.control.i, h.control.r, h.control.iff1, h.control.iff2, h.control.im, h.control.halted,
    h.control.postEi, h.control.shadow⟩, by rw [← h.pc]; rfl, by rw [← h.cycles]; rfl⟩

theorem Same.jump (h : Same s t) (target : Word) {n : Nat} (hn : 4 ≤ n ∧ n ≤ 23) :
    Ends s (Turns s) (.next (t.jump target n)) :=
  ⟨⟨h.around.mmu, h.around.vdp, h.around.psg, h.around.int, h.around.nmi, h.around.inputs, h.around.outputs,
    h.around.schedule⟩, ⟨h.control.i, h.control.r, h.control.iff1, h.control.iff2, h.control.im, h.control.halted,
    h.control.postEi, h.control.shadow⟩, by
      have : (t.jump target n).cycles = t.cycles + n := rfl
      rw [this, h.cycles]
      omega⟩

theorem Plain.turns {len n : Nat} (h : Plain s len n t) (hn : 4 ≤ n ∧ n ≤ 23) : Turns s t :=
  ⟨h.around, h.control, by rw [h.cycles]; omega⟩

theorem Same.repeatIf (h : Same s t) (again : Bool) : Ends s (Turns s) (.next (t.repeatIf again)) := by
  cases again
  · exact (h.done 2 16).mono fun _ p => p.turns (by decide)
  · exact h.jump _ (by decide)

end

namespace State

variable (s : State)

/-! ### Stores -/

theorem write_ends {s t : State} (h : Same s t) (a : Word) (v : Byte) : Ends s (Same s) (t.write a v) := by
  by_cases f : StoreFaults t.mmu a v
  · rw [(t.write_spec a v).1 f]
    exact ⟨h.around.mmu.cartridge.2.2 ▸ f.1, v, rfl, f.2.2⟩
  · obtain ⟨n, e, _⟩ := Mmu.write_effect f
    unfold write
    rw [e]
    exact ⟨⟨.step a v h.around.mmu e, h.around.vdp, h.around.psg, h.around.int, h.around.nmi, h.around.inputs, h.around.outputs,
      h.around.schedule⟩, ⟨h.control.i, h.control.r, h.control.iff1, h.control.iff2, h.control.im, h.control.halted,
      h.control.postEi, h.control.shadow⟩, h.pc, h.cycles⟩

theorem write16_ends (a v : Word) : Ends s (Same s) (s.write16 a v) :=
  (write_ends (.refl s) a _).andThen fun _ h => write_ends h ..

theorem push16_ends (v : Word) : Ends s (Same s) (s.push16 v) :=
  (write_ends ((Same.refl s).setSp _) ..).andThen fun _ h => write_ends (h.setSp _) ..

theorem storeThen_ends (a : Word) (v : Byte) (len n : Nat) : Ends s (Plain s len n) (s.storeThen a v len n) :=
  (write_ends (.refl s) ..).andThen fun _ h => h.done ..

theorem store16Then_ends (a v : Word) (len n : Nat) : Ends s (Plain s len n) (s.store16Then a v len n) :=
  (s.write16_ends ..).andThen fun _ h => h.done ..

theorem modifyMem_ends (a : Word) (g : Byte → Byte → Out8) (len n : Nat) :
    Ends s (Plain s len n) (s.modifyMem a g len n) :=
  (write_ends (.refl s) ..).andThen fun _ h => (h.setF _).done ..

theorem modifyMemCopy_ends (a : Word) (r : Reg8) (g : Byte → Byte → Out8) (len n : Nat) :
    Ends s (Plain s len n) (s.modifyMemCopy a r g len n) :=
  (write_ends (.refl s) ..).andThen fun _ h => ((h.setR ..).setF _).done ..

/-! ### Registers -/

theorem aluThen_ends (op : AluOp) (v : Byte) (len n : Nat) : Ends s (Plain s len n) (s.aluThen op v len n) :=
  (((Same.refl s).setA _).setF _).done ..

theorem modifyR_ends (r : Reg8) (g : Byte → Byte → Out8) (len n : Nat) : Ends s (Plain s len n) (s.modifyR r g len n) :=
  (((Same.refl s).setR ..).setF _).done ..

theorem modifyA_ends (g : Byte → Byte → Out8) (len n : Nat) : Ends s (Plain s len n) (s.modifyA g len n) :=
  (((Same.refl s).setA _).setF _).done ..

theorem modifyHalf_ends (x : Idx) (k : Half) (g : Byte → Byte → Out8) (len n : Nat) :
    Ends s (Plain s len n) (s.modifyHalf x k g len n) :=
  (((Same.refl s).setHalf ..).setF _).done ..

/-! ### Jumps and calls -/

theorem jumpRelIf_ends (c : Bool) (e : Byte) : Ends s (Turns s) (s.jumpRelIf c e) := by
  cases c
  · exact ((Same.refl s).done 2 7).mono fun _ p => p.turns (by decide)
  · exact (Same.refl s).jump _ (by decide)

theorem call_ends (target : Word) (len : Nat) {n : Nat} (hn : 4 ≤ n ∧ n ≤ 23) : Ends s (Turns s) (s.call target len n) :=
  (s.push16_ends _).andThen fun _ h => h.jump _ hn

/-! ### Ports and block iterations -/

theorem portRead_same (p : Byte) : Same s (s.portRead p).2 := by
  unfold portRead vdpRead
  (repeat' split) <;> first
    | exact Same.refl s
    | exact ⟨⟨.refl _, .status, .inl rfl, fun h => Bool.noConfusion h, rfl, rfl, rfl, rfl⟩, ⟨rfl, rfl, rfl, rfl, rfl, rfl, rfl, rfl⟩, rfl, rfl⟩
    | exact ⟨⟨.refl _, .read, .inl rfl, id, rfl, rfl, rfl, rfl⟩, ⟨rfl, rfl, rfl, rfl, rfl, rfl, rfl, rfl⟩, rfl, rfl⟩

theorem portWrite_same (p v : Byte) : Same s (s.portWrite p v) := by
  unfold portWrite
  (repeat' split) <;> first
    | exact Same.refl s
    | exact ⟨⟨.refl _, .none, .inr ⟨v, rfl⟩, id, rfl, rfl, rfl, rfl⟩, ⟨rfl, rfl, rfl, rfl, rfl, rfl, rfl, rfl⟩, rfl, rfl⟩
    | exact ⟨⟨.refl _, .control v, .inl rfl, id, rfl, rfl, rfl, rfl⟩, ⟨rfl, rfl, rfl, rfl, rfl, rfl, rfl, rfl⟩, rfl, rfl⟩
    | exact ⟨⟨.refl _, .data v, .inl rfl, id, rfl, rfl, rfl, rfl⟩, ⟨rfl, rfl, rfl, rfl, rfl, rfl, rfl, rfl⟩, rfl, rfl⟩

theorem blockMove_ends (step : Word) : Ends s (Same s) (s.blockMove step) :=
  (write_ends (.refl s) ..).andThen fun _ h => (((h.setHl _).setDe _).setBc _).setF _

theorem blockSearch_same (step : Word) : Same s (s.blockSearch step) := (((Same.refl s).setHl _).setBc _).setF _

theorem blockIn_ends (step : Word) : Ends s (Same s) (s.blockIn step) :=
  (write_ends (s.portRead_same _) ..).andThen fun _ h => ((h.setHl _).setR ..).setF _

theorem blockOut_same (step : Word) : Same s (s.blockOut step) := by
  rw [s.blockOut_spec]
  exact (((s.portWrite_same ..).setHl _).setR ..).setF _

end State

/-! ### Every instruction -/

/-- The instructions that write the control state. -/
def writesControl : Instr → Bool
  | .halt | .di | .ei | .im0 | .im1 | .im2 | .im0Mirror _ | .im1Mirror | .im2Mirror | .reti | .retn | .retnMirror _
  | .ldIA | .ldRA | .exAfAf | .exx => true
  | _ => false

/-- What every instruction does. -/
structure Runs (i : Instr) (s t : State) : Prop where
  around  : Around s t
  control : writesControl i = false → Control s t
  pc      : mayTurn i = false → t.pc = s.pc + BitVec.ofNat 16 i.length
  cycles  : s.cycles + 4 ≤ t.cycles ∧ t.cycles ≤ s.cycles + 23
  cost    : mayTurn i = false → t.cycles = s.cycles + i.row.cycles

theorem Ends.plain {i : Instr} {s : State} {len n : Nat} {o : Result} (h : Ends s (Plain s len n) o) (hl : i.length = len)
    (hn : 4 ≤ n ∧ n ≤ 23) (hr : i.row.cycles = n := by rfl) : Ends s (Runs i s) o :=
  h.mono fun t p => ⟨p.around, fun _ => p.control, fun _ => by rw [hl, p.pc], by rw [p.cycles]; omega, fun _ => by rw [hr, p.cycles]⟩

theorem Ends.turns {i : Instr} {s : State} {o : Result} (h : Ends s (Turns s) o) (hi : mayTurn i = true) :
    Ends s (Runs i s) o :=
  h.mono fun _ p => ⟨p.around, fun _ => p.control, fun e => (Bool.noConfusion (hi.symm.trans e)), p.cycles,
    fun e => (Bool.noConfusion (hi.symm.trans e))⟩

theorem Ends.special {i : Instr} {s t : State} (ha : Around s t) (hc : writesControl i = true)
    (hp : mayTurn i = false → t.pc = s.pc + BitVec.ofNat 16 i.length)
    (hn : s.cycles + 4 ≤ t.cycles ∧ t.cycles ≤ s.cycles + 23)
    (hr : mayTurn i = false → t.cycles = s.cycles + i.row.cycles := by first | exact fun _ => rfl | exact fun e => nomatch e) :
    Ends s (Runs i s) (.next t) :=
  ⟨ha, fun e => (Bool.noConfusion (hc.symm.trans e)), hp, hn, hr⟩

theorem ends_ite {s : State} {P : State → Prop} {c : Prop} [Decidable c] {o q : Result} (ho : Ends s P o) (hq : Ends s P q) :
    Ends s P (if c then o else q) := by
  split
  exacts [ho, hq]

theorem within {n : Nat} (c : Nat) (hn : 4 ≤ n ∧ n ≤ 23) : c + 4 ≤ c + n ∧ c + n ≤ c + 23 := by omega

/-- Everything any instruction can do. -/
theorem exec_ends (i : Instr) (s : State) : Ends s (Runs i s) (exec i s) := by
  cases i with
  | nop => exact ((Same.refl s).done ..).plain rfl (by decide)
  | exAfAf => exact .special ⟨.refl _, .none, .inl rfl, id, rfl, rfl, rfl, rfl⟩ rfl (fun _ => rfl) (within _ (by decide))
  | djnzE e => exact (ends_ite (((Same.refl s).setR ..).jump _ (by decide)) ((((Same.refl s).setR ..).done 2 8).mono fun _ p => p.turns (by decide))).turns rfl
  | jrE e => exact ((Same.refl s).jump _ (by decide)).turns rfl
  | jrNzE e => exact (s.jumpRelIf_ends ..).turns rfl
  | jrZE e => exact (s.jumpRelIf_ends ..).turns rfl
  | jrNcE e => exact (s.jumpRelIf_ends ..).turns rfl
  | jrCE e => exact (s.jumpRelIf_ends ..).turns rfl
  | ldDdNn p nn => exact (((Same.refl s).setPair ..).done ..).plain rfl (by decide)
  | addHlSs p => exact ((((Same.refl s).setHl ..).setF ..).done ..).plain rfl (by decide)
  | ldIndBcA => exact (s.storeThen_ends ..).plain rfl (by decide)
  | ldAIndBc => exact (((Same.refl s).setA ..).done ..).plain rfl (by decide)
  | ldIndDeA => exact (s.storeThen_ends ..).plain rfl (by decide)
  | ldAIndDe => exact (((Same.refl s).setA ..).done ..).plain rfl (by decide)
  | ldIndNnHl nn => exact (s.store16Then_ends ..).plain rfl (by decide)
  | ldHlIndNn nn => exact (((Same.refl s).setHl ..).done ..).plain rfl (by decide)
  | ldIndNnA nn => exact (s.storeThen_ends ..).plain rfl (by decide)
  | ldAIndNn nn => exact (((Same.refl s).setA ..).done ..).plain rfl (by decide)
  | incSs p => exact (((Same.refl s).setPair ..).done ..).plain rfl (by decide)
  | decSs p => exact (((Same.refl s).setPair ..).done ..).plain rfl (by decide)
  | incR r => exact (s.modifyR_ends ..).plain rfl (by decide)
  | incIndHl => exact (s.modifyMem_ends ..).plain rfl (by decide)
  | decR r => exact (s.modifyR_ends ..).plain rfl (by decide)
  | decIndHl => exact (s.modifyMem_ends ..).plain rfl (by decide)
  | ldRN r n => exact (((Same.refl s).setR ..).done ..).plain rfl (by decide)
  | ldIndHlN n => exact (s.storeThen_ends ..).plain rfl (by decide)
  | rlca => exact (s.modifyA_ends ..).plain rfl (by decide)
  | rrca => exact (s.modifyA_ends ..).plain rfl (by decide)
  | rla => exact (s.modifyA_ends ..).plain rfl (by decide)
  | rra => exact (s.modifyA_ends ..).plain rfl (by decide)
  | daa => exact (s.modifyA_ends ..).plain rfl (by decide)
  | cpl => exact (s.modifyA_ends ..).plain rfl (by decide)
  | scf => exact (((Same.refl s).setF ..).done ..).plain rfl (by decide)
  | ccf => exact (((Same.refl s).setF ..).done ..).plain rfl (by decide)
  | ldRR r q => exact (((Same.refl s).setR ..).done ..).plain rfl (by decide)
  | ldRIndHl r => exact (((Same.refl s).setR ..).done ..).plain rfl (by decide)
  | ldIndHlR r => exact (s.storeThen_ends ..).plain rfl (by decide)
  | halt => exact .special ⟨.refl _, .none, .inl rfl, id, rfl, rfl, rfl, rfl⟩ rfl (fun _ => rfl) (within _ (by decide))
  | addAR r => exact (s.aluThen_ends ..).plain rfl (by decide)
  | addAIndHl => exact (s.aluThen_ends ..).plain rfl (by decide)
  | addAN n => exact (s.aluThen_ends ..).plain rfl (by decide)
  | adcAR r => exact (s.aluThen_ends ..).plain rfl (by decide)
  | adcAIndHl => exact (s.aluThen_ends ..).plain rfl (by decide)
  | adcAN n => exact (s.aluThen_ends ..).plain rfl (by decide)
  | subR r => exact (s.aluThen_ends ..).plain rfl (by decide)
  | subIndHl => exact (s.aluThen_ends ..).plain rfl (by decide)
  | subN n => exact (s.aluThen_ends ..).plain rfl (by decide)
  | sbcAR r => exact (s.aluThen_ends ..).plain rfl (by decide)
  | sbcAIndHl => exact (s.aluThen_ends ..).plain rfl (by decide)
  | sbcAN n => exact (s.aluThen_ends ..).plain rfl (by decide)
  | andR r => exact (s.aluThen_ends ..).plain rfl (by decide)
  | andIndHl => exact (s.aluThen_ends ..).plain rfl (by decide)
  | andN n => exact (s.aluThen_ends ..).plain rfl (by decide)
  | xorR r => exact (s.aluThen_ends ..).plain rfl (by decide)
  | xorIndHl => exact (s.aluThen_ends ..).plain rfl (by decide)
  | xorN n => exact (s.aluThen_ends ..).plain rfl (by decide)
  | orR r => exact (s.aluThen_ends ..).plain rfl (by decide)
  | orIndHl => exact (s.aluThen_ends ..).plain rfl (by decide)
  | orN n => exact (s.aluThen_ends ..).plain rfl (by decide)
  | cpR r => exact (s.aluThen_ends ..).plain rfl (by decide)
  | cpIndHl => exact (s.aluThen_ends ..).plain rfl (by decide)
  | cpN n => exact (s.aluThen_ends ..).plain rfl (by decide)
  | retCc cc => exact (ends_ite ((Same.refl s).popped.jump _ (by decide)) (((Same.refl s).done 1 5).mono fun _ p => p.turns (by decide))).turns rfl
  | popQq p => exact ((((Same.refl s).popped).setQPair ..).done ..).plain rfl (by decide)
  | ret => exact ((Same.refl s).popped.jump _ (by decide)).turns rfl
  | exx => exact .special ⟨.refl _, .none, .inl rfl, id, rfl, rfl, rfl, rfl⟩ rfl (fun _ => rfl) (within _ (by decide))
  | jpHl => exact ((Same.refl s).jump _ (by decide)).turns rfl
  | ldSpHl => exact (((Same.refl s).setSp ..).done ..).plain rfl (by decide)
  | jpCcNn cc nn => exact (ends_ite ((Same.refl s).jump _ (by decide)) (((Same.refl s).done 3 10).mono fun _ p => p.turns (by decide))).turns rfl
  | jpNn nn => exact ((Same.refl s).jump _ (by decide)).turns rfl
  | outPortNA n => exact ((s.portWrite_same ..).done ..).plain rfl (by decide)
  | inAPortN n => exact (((s.portRead_same _).setA _).done ..).plain rfl (by decide)
  | exIndSpHl => exact ((s.write16_ends ..).andThen fun _ h => (h.setHl _).done ..).plain rfl (by decide)
  | exDeHl => exact ((((Same.refl s).setDe ..).setHl ..).done ..).plain rfl (by decide)
  | di => exact .special ⟨.refl _, .none, .inl rfl, id, rfl, rfl, rfl, rfl⟩ rfl (fun _ => rfl) (within _ (by decide))
  | ei => exact .special ⟨.refl _, .none, .inl rfl, id, rfl, rfl, rfl, rfl⟩ rfl (fun _ => rfl) (within _ (by decide))
  | callCcNn cc nn => exact (ends_ite (s.call_ends _ _ (by decide)) (((Same.refl s).done 3 10).mono fun _ p => p.turns (by decide))).turns rfl
  | pushQq p => exact ((s.push16_ends ..).andThen fun _ h => h.done ..).plain rfl (by decide)
  | callNn nn => exact (s.call_ends _ _ (by decide)).turns rfl
  | rstP t => exact (s.call_ends _ _ (by decide)).turns rfl
  | rlcR r => exact (s.modifyR_ends ..).plain rfl (by decide)
  | rlcIndHl => exact (s.modifyMem_ends ..).plain rfl (by decide)
  | rrcR r => exact (s.modifyR_ends ..).plain rfl (by decide)
  | rrcIndHl => exact (s.modifyMem_ends ..).plain rfl (by decide)
  | rlR r => exact (s.modifyR_ends ..).plain rfl (by decide)
  | rlIndHl => exact (s.modifyMem_ends ..).plain rfl (by decide)
  | rrR r => exact (s.modifyR_ends ..).plain rfl (by decide)
  | rrIndHl => exact (s.modifyMem_ends ..).plain rfl (by decide)
  | slaR r => exact (s.modifyR_ends ..).plain rfl (by decide)
  | slaIndHl => exact (s.modifyMem_ends ..).plain rfl (by decide)
  | sraR r => exact (s.modifyR_ends ..).plain rfl (by decide)
  | sraIndHl => exact (s.modifyMem_ends ..).plain rfl (by decide)
  | sllR r => exact (s.modifyR_ends ..).plain rfl (by decide)
  | sllIndHl => exact (s.modifyMem_ends ..).plain rfl (by decide)
  | srlR r => exact (s.modifyR_ends ..).plain rfl (by decide)
  | srlIndHl => exact (s.modifyMem_ends ..).plain rfl (by decide)
  | bitBR b r => exact (((Same.refl s).setF ..).done ..).plain rfl (by decide)
  | bitBIndHl b => exact ((((Same.refl s).setF _).draw _).done ..).plain rfl (by decide)
  | resBR b r => exact (s.modifyR_ends ..).plain rfl (by decide)
  | resBIndHl b => exact (s.modifyMem_ends ..).plain rfl (by decide)
  | setBR b r => exact (s.modifyR_ends ..).plain rfl (by decide)
  | setBIndHl b => exact (s.modifyMem_ends ..).plain rfl (by decide)
  | addIxPp p => exact ((((Same.refl s).setXY ..).setF ..).done ..).plain rfl (by decide)
  | ldIxNn nn => exact (((Same.refl s).setXY ..).done ..).plain rfl (by decide)
  | ldIndNnIx nn => exact (s.store16Then_ends ..).plain rfl (by decide)
  | incIx => exact (((Same.refl s).setXY ..).done ..).plain rfl (by decide)
  | ldIxIndNn nn => exact (((Same.refl s).setXY ..).done ..).plain rfl (by decide)
  | decIx => exact (((Same.refl s).setXY ..).done ..).plain rfl (by decide)
  | incIxHalf h => exact (s.modifyHalf_ends ..).plain rfl (by decide)
  | decIxHalf h => exact (s.modifyHalf_ends ..).plain rfl (by decide)
  | ldIxHalfN h n => exact (((Same.refl s).setHalf ..).done ..).plain rfl (by decide)
  | incIndIx d => exact (s.modifyMem_ends ..).plain rfl (by decide)
  | decIndIx d => exact (s.modifyMem_ends ..).plain rfl (by decide)
  | ldIndIxN d n => exact (s.storeThen_ends ..).plain rfl (by decide)
  | ldRIndIx r d => exact (((Same.refl s).setR ..).done ..).plain rfl (by decide)
  | ldIndIxR d r => exact (s.storeThen_ends ..).plain rfl (by decide)
  | ldIxHalfS h q => exact (((Same.refl s).setHalf ..).done ..).plain rfl (by decide)
  | ldRIxHalf r h => exact (((Same.refl s).setPlain ..).done ..).plain rfl (by decide)
  | addAIndIx d => exact (s.aluThen_ends ..).plain rfl (by decide)
  | addAIxHalf h => exact (s.aluThen_ends ..).plain rfl (by decide)
  | adcAIndIx d => exact (s.aluThen_ends ..).plain rfl (by decide)
  | adcAIxHalf h => exact (s.aluThen_ends ..).plain rfl (by decide)
  | subIndIx d => exact (s.aluThen_ends ..).plain rfl (by decide)
  | subIxHalf h => exact (s.aluThen_ends ..).plain rfl (by decide)
  | sbcAIndIx d => exact (s.aluThen_ends ..).plain rfl (by decide)
  | sbcAIxHalf h => exact (s.aluThen_ends ..).plain rfl (by decide)
  | andIndIx d => exact (s.aluThen_ends ..).plain rfl (by decide)
  | andIxHalf h => exact (s.aluThen_ends ..).plain rfl (by decide)
  | xorIndIx d => exact (s.aluThen_ends ..).plain rfl (by decide)
  | xorIxHalf h => exact (s.aluThen_ends ..).plain rfl (by decide)
  | orIndIx d => exact (s.aluThen_ends ..).plain rfl (by decide)
  | orIxHalf h => exact (s.aluThen_ends ..).plain rfl (by decide)
  | cpIndIx d => exact (s.aluThen_ends ..).plain rfl (by decide)
  | cpIxHalf h => exact (s.aluThen_ends ..).plain rfl (by decide)
  | popIx => exact ((((Same.refl s).popped).setXY ..).done ..).plain rfl (by decide)
  | exIndSpIx => exact ((s.write16_ends ..).andThen fun _ h => (h.setXY ..).done ..).plain rfl (by decide)
  | pushIx => exact ((s.push16_ends ..).andThen fun _ h => h.done ..).plain rfl (by decide)
  | jpIx => exact ((Same.refl s).jump _ (by decide)).turns rfl
  | ldSpIx => exact (((Same.refl s).setSp ..).done ..).plain rfl (by decide)
  | rlcIndIx d => exact (s.modifyMem_ends ..).plain rfl (by decide)
  | rlcIndIxR d r => exact (s.modifyMemCopy_ends ..).plain rfl (by decide)
  | rrcIndIx d => exact (s.modifyMem_ends ..).plain rfl (by decide)
  | rrcIndIxR d r => exact (s.modifyMemCopy_ends ..).plain rfl (by decide)
  | rlIndIx d => exact (s.modifyMem_ends ..).plain rfl (by decide)
  | rlIndIxR d r => exact (s.modifyMemCopy_ends ..).plain rfl (by decide)
  | rrIndIx d => exact (s.modifyMem_ends ..).plain rfl (by decide)
  | rrIndIxR d r => exact (s.modifyMemCopy_ends ..).plain rfl (by decide)
  | slaIndIx d => exact (s.modifyMem_ends ..).plain rfl (by decide)
  | slaIndIxR d r => exact (s.modifyMemCopy_ends ..).plain rfl (by decide)
  | sraIndIx d => exact (s.modifyMem_ends ..).plain rfl (by decide)
  | sraIndIxR d r => exact (s.modifyMemCopy_ends ..).plain rfl (by decide)
  | sllIndIx d => exact (s.modifyMem_ends ..).plain rfl (by decide)
  | sllIndIxR d r => exact (s.modifyMemCopy_ends ..).plain rfl (by decide)
  | srlIndIx d => exact (s.modifyMem_ends ..).plain rfl (by decide)
  | srlIndIxR d r => exact (s.modifyMemCopy_ends ..).plain rfl (by decide)
  | bitBIndIx b d => exact (((Same.refl s).setF ..).done ..).plain rfl (by decide)
  | bitBIndIxAlias b d y => exact (((Same.refl s).setF ..).done ..).plain rfl (by decide)
  | resBIndIx b d => exact (s.modifyMem_ends ..).plain rfl (by decide)
  | resBIndIxR b d r => exact (s.modifyMemCopy_ends ..).plain rfl (by decide)
  | setBIndIx b d => exact (s.modifyMem_ends ..).plain rfl (by decide)
  | setBIndIxR b d r => exact (s.modifyMemCopy_ends ..).plain rfl (by decide)
  | addIyPp p => exact ((((Same.refl s).setXY ..).setF ..).done ..).plain rfl (by decide)
  | ldIyNn nn => exact (((Same.refl s).setXY ..).done ..).plain rfl (by decide)
  | ldIndNnIy nn => exact (s.store16Then_ends ..).plain rfl (by decide)
  | incIy => exact (((Same.refl s).setXY ..).done ..).plain rfl (by decide)
  | ldIyIndNn nn => exact (((Same.refl s).setXY ..).done ..).plain rfl (by decide)
  | decIy => exact (((Same.refl s).setXY ..).done ..).plain rfl (by decide)
  | incIyHalf h => exact (s.modifyHalf_ends ..).plain rfl (by decide)
  | decIyHalf h => exact (s.modifyHalf_ends ..).plain rfl (by decide)
  | ldIyHalfN h n => exact (((Same.refl s).setHalf ..).done ..).plain rfl (by decide)
  | incIndIy d => exact (s.modifyMem_ends ..).plain rfl (by decide)
  | decIndIy d => exact (s.modifyMem_ends ..).plain rfl (by decide)
  | ldIndIyN d n => exact (s.storeThen_ends ..).plain rfl (by decide)
  | ldRIndIy r d => exact (((Same.refl s).setR ..).done ..).plain rfl (by decide)
  | ldIndIyR d r => exact (s.storeThen_ends ..).plain rfl (by decide)
  | ldIyHalfS h q => exact (((Same.refl s).setHalf ..).done ..).plain rfl (by decide)
  | ldRIyHalf r h => exact (((Same.refl s).setPlain ..).done ..).plain rfl (by decide)
  | addAIndIy d => exact (s.aluThen_ends ..).plain rfl (by decide)
  | addAIyHalf h => exact (s.aluThen_ends ..).plain rfl (by decide)
  | adcAIndIy d => exact (s.aluThen_ends ..).plain rfl (by decide)
  | adcAIyHalf h => exact (s.aluThen_ends ..).plain rfl (by decide)
  | subIndIy d => exact (s.aluThen_ends ..).plain rfl (by decide)
  | subIyHalf h => exact (s.aluThen_ends ..).plain rfl (by decide)
  | sbcAIndIy d => exact (s.aluThen_ends ..).plain rfl (by decide)
  | sbcAIyHalf h => exact (s.aluThen_ends ..).plain rfl (by decide)
  | andIndIy d => exact (s.aluThen_ends ..).plain rfl (by decide)
  | andIyHalf h => exact (s.aluThen_ends ..).plain rfl (by decide)
  | xorIndIy d => exact (s.aluThen_ends ..).plain rfl (by decide)
  | xorIyHalf h => exact (s.aluThen_ends ..).plain rfl (by decide)
  | orIndIy d => exact (s.aluThen_ends ..).plain rfl (by decide)
  | orIyHalf h => exact (s.aluThen_ends ..).plain rfl (by decide)
  | cpIndIy d => exact (s.aluThen_ends ..).plain rfl (by decide)
  | cpIyHalf h => exact (s.aluThen_ends ..).plain rfl (by decide)
  | popIy => exact ((((Same.refl s).popped).setXY ..).done ..).plain rfl (by decide)
  | exIndSpIy => exact ((s.write16_ends ..).andThen fun _ h => (h.setXY ..).done ..).plain rfl (by decide)
  | pushIy => exact ((s.push16_ends ..).andThen fun _ h => h.done ..).plain rfl (by decide)
  | jpIy => exact ((Same.refl s).jump _ (by decide)).turns rfl
  | ldSpIy => exact (((Same.refl s).setSp ..).done ..).plain rfl (by decide)
  | rlcIndIy d => exact (s.modifyMem_ends ..).plain rfl (by decide)
  | rlcIndIyR d r => exact (s.modifyMemCopy_ends ..).plain rfl (by decide)
  | rrcIndIy d => exact (s.modifyMem_ends ..).plain rfl (by decide)
  | rrcIndIyR d r => exact (s.modifyMemCopy_ends ..).plain rfl (by decide)
  | rlIndIy d => exact (s.modifyMem_ends ..).plain rfl (by decide)
  | rlIndIyR d r => exact (s.modifyMemCopy_ends ..).plain rfl (by decide)
  | rrIndIy d => exact (s.modifyMem_ends ..).plain rfl (by decide)
  | rrIndIyR d r => exact (s.modifyMemCopy_ends ..).plain rfl (by decide)
  | slaIndIy d => exact (s.modifyMem_ends ..).plain rfl (by decide)
  | slaIndIyR d r => exact (s.modifyMemCopy_ends ..).plain rfl (by decide)
  | sraIndIy d => exact (s.modifyMem_ends ..).plain rfl (by decide)
  | sraIndIyR d r => exact (s.modifyMemCopy_ends ..).plain rfl (by decide)
  | sllIndIy d => exact (s.modifyMem_ends ..).plain rfl (by decide)
  | sllIndIyR d r => exact (s.modifyMemCopy_ends ..).plain rfl (by decide)
  | srlIndIy d => exact (s.modifyMem_ends ..).plain rfl (by decide)
  | srlIndIyR d r => exact (s.modifyMemCopy_ends ..).plain rfl (by decide)
  | bitBIndIy b d => exact (((Same.refl s).setF ..).done ..).plain rfl (by decide)
  | bitBIndIyAlias b d y => exact (((Same.refl s).setF ..).done ..).plain rfl (by decide)
  | resBIndIy b d => exact (s.modifyMem_ends ..).plain rfl (by decide)
  | resBIndIyR b d r => exact (s.modifyMemCopy_ends ..).plain rfl (by decide)
  | setBIndIy b d => exact (s.modifyMem_ends ..).plain rfl (by decide)
  | setBIndIyR b d r => exact (s.modifyMemCopy_ends ..).plain rfl (by decide)
  | inRPortC r => exact ((((s.portRead_same _).setR ..).setF _).done ..).plain rfl (by decide)
  | inPortC => exact (((s.portRead_same _).setF _).done ..).plain rfl (by decide)
  | outPortCR r => exact ((s.portWrite_same ..).done ..).plain rfl (by decide)
  | outPortCZero => exact ((s.portWrite_same ..).done ..).plain rfl (by decide)
  | sbcHlSs p => exact ((((Same.refl s).setHl ..).setF ..).done ..).plain rfl (by decide)
  | adcHlSs p => exact ((((Same.refl s).setHl ..).setF ..).done ..).plain rfl (by decide)
  | ldIndNnDd p nn => exact (s.store16Then_ends ..).plain rfl (by decide)
  | ldDdIndNn p nn => exact (((Same.refl s).setPair ..).done ..).plain rfl (by decide)
  | neg => exact (s.modifyA_ends (fun a _ => sub8 0 a false) 2 8).plain rfl (by decide)
  | negMirror y => exact (s.modifyA_ends (fun a _ => sub8 0 a false) 2 8).plain rfl (by decide)
  | retn => exact .special ⟨.refl _, .none, .inl rfl, id, rfl, rfl, rfl, rfl⟩ rfl (fun e => by cases e) (within _ (by decide))
  | reti => exact .special ⟨.refl _, .none, .inl rfl, id, rfl, rfl, rfl, rfl⟩ rfl (fun e => by cases e) (within _ (by decide))
  | retnMirror y => exact .special ⟨.refl _, .none, .inl rfl, id, rfl, rfl, rfl, rfl⟩ rfl (fun e => by cases e) (within _ (by decide))
  | im0 => exact .special ⟨.refl _, .none, .inl rfl, id, rfl, rfl, rfl, rfl⟩ rfl (fun _ => rfl) (within _ (by decide))
  | im1 => exact .special ⟨.refl _, .none, .inl rfl, id, rfl, rfl, rfl, rfl⟩ rfl (fun _ => rfl) (within _ (by decide))
  | im2 => exact .special ⟨.refl _, .none, .inl rfl, id, rfl, rfl, rfl, rfl⟩ rfl (fun _ => rfl) (within _ (by decide))
  | im0Mirror y => exact .special ⟨.refl _, .none, .inl rfl, id, rfl, rfl, rfl, rfl⟩ rfl (fun _ => rfl) (within _ (by decide))
  | im1Mirror => exact .special ⟨.refl _, .none, .inl rfl, id, rfl, rfl, rfl, rfl⟩ rfl (fun _ => rfl) (within _ (by decide))
  | im2Mirror => exact .special ⟨.refl _, .none, .inl rfl, id, rfl, rfl, rfl, rfl⟩ rfl (fun _ => rfl) (within _ (by decide))
  | ldIA => exact .special ⟨.refl _, .none, .inl rfl, id, rfl, rfl, rfl, rfl⟩ rfl (fun _ => rfl) (within _ (by decide))
  | ldRA => exact .special ⟨.refl _, .none, .inl rfl, id, rfl, rfl, rfl, rfl⟩ rfl (fun _ => rfl) (within _ (by decide))
  | ldAI => exact ((((Same.refl s).setA ..).setF ..).done ..).plain rfl (by decide)
  | ldAR => exact ((((Same.refl s).setA ..).setF ..).done ..).plain rfl (by decide)
  | rrd => exact ((State.write_ends (.refl s) ..).andThen fun _ h => ((h.setA _).setF _).done ..).plain rfl (by decide)
  | rld => exact ((State.write_ends (.refl s) ..).andThen fun _ h => ((h.setA _).setF _).done ..).plain rfl (by decide)
  | ldi => exact ((s.blockMove_ends _).andThen fun _ h => h.done ..).plain rfl (by decide)
  | cpi => exact ((s.blockSearch_same _).done ..).plain rfl (by decide)
  | ini => exact ((s.blockIn_ends _).andThen fun _ h => h.done ..).plain rfl (by decide)
  | outi => exact ((s.blockOut_same _).done ..).plain rfl (by decide)
  | ldd => exact ((s.blockMove_ends _).andThen fun _ h => h.done ..).plain rfl (by decide)
  | cpd => exact ((s.blockSearch_same _).done ..).plain rfl (by decide)
  | ind => exact ((s.blockIn_ends _).andThen fun _ h => h.done ..).plain rfl (by decide)
  | outd => exact ((s.blockOut_same _).done ..).plain rfl (by decide)
  | ldir => exact ((s.blockMove_ends _).andThen fun _ h => h.repeatIf _).turns rfl
  | cpir => exact ((s.blockSearch_same _).repeatIf _).turns rfl
  | inir => exact ((s.blockIn_ends _).andThen fun _ h => h.repeatIf _).turns rfl
  | otir => exact ((s.blockOut_same _).repeatIf _).turns rfl
  | lddr => exact ((s.blockMove_ends _).andThen fun _ h => h.repeatIf _).turns rfl
  | cpdr => exact ((s.blockSearch_same _).repeatIf _).turns rfl
  | indr => exact ((s.blockIn_ends _).andThen fun _ h => h.repeatIf _).turns rfl
  | otdr => exact ((s.blockOut_same _).repeatIf _).turns rfl

/-- A next state of an instruction. -/
theorem exec_next {i : Instr} {s t : State} (h : exec i s = .next t) : Runs i s t := by
  have := exec_ends i s
  rw [h] at this
  exact this

/-- No instruction is refused. -/
theorem exec_not_refused (i : Instr) (s : State) (r : Refusal) : exec i s ≠ .refused r := by
  intro h
  have := exec_ends i s
  rw [h] at this
  exact this

end Sys2Proof.Machine
end

