-- ==== Sys2Proof/Laws/Invariant.lean ====
section
/-! SUPPORT. What each operation does to the parts of the invariant (`Safety.Inv`): a store to the MMU part, a port access and an advance to
the VDP part, an event to the FIFO, a rendered line to the screen. -/

namespace Sys2Proof

namespace Safety

open Sys2Proof.Machine

/-! ### The MMU -/

theorem MemoryOk.write {m : Memory} {n a : Nat} (h : MemoryOk m n) (ha : a < n) (v : Byte) : MemoryOk (Memory.write m a v) n :=
  ⟨Memory.write_wf h.1 a v, Memory.write_below h.2 ha v⟩

theorem MemoryOk.empty (n : Nat) : MemoryOk [] n := ⟨Memory.empty_wf, Memory.empty_below n⟩

theorem MemoryOk.ofCells (n : Nat) (l : List Host.Cell) : MemoryOk (Memory.ofCells n l) n :=
  ⟨Memory.ofCells_wf n l, Memory.ofCells_below n l⟩

theorem MmuOk.putSysRam {m : Mmu} (h : MmuOk m) (a : Nat) (v : Byte) : MmuOk (m.putSysRam a v) :=
  ⟨h.banks, h.rom, h.sysRam.write (Nat.mod_lt _ (by decide)) v, h.cartRam, h.slots, h.noRam, h.korean⟩

theorem MmuOk.putCartRam {m : Mmu} (h : MmuOk m) {a : Nat} (hl : 0x8000 ≤ a) (hu : a < 0xC000) (v : Byte) :
    MmuOk (m.putCartRam a v) :=
  ⟨h.banks, h.rom, h.sysRam, h.cartRam.write (by cases m.ramBank <;> simp <;> omega) v, h.slots, h.noRam, h.korean⟩

theorem MmuOk.setMapperSlot {m : Mmu} (h : MmuOk m) {k : Nat} (hk : m.mapper = .korean → 2 ≤ k) (v : Byte) :
    MmuOk (m.setMapperSlot k v) := by
  have hb : v.toNat % m.bankCount < m.bankCount := Nat.mod_lt _ (by have := h.banks; omega)
  unfold Mmu.setMapperSlot
  split
  · exact ⟨h.banks, h.rom, h.sysRam, h.cartRam, ⟨hb, h.slots.2⟩, h.noRam, fun e => absurd (hk e) (by decide)⟩
  · exact ⟨h.banks, h.rom, h.sysRam, h.cartRam, ⟨h.slots.1, hb, h.slots.2.2⟩, h.noRam, fun e => absurd (hk e) (by decide)⟩
  · exact ⟨h.banks, h.rom, h.sysRam, h.cartRam, ⟨h.slots.1, h.slots.2.1, hb⟩, h.noRam, h.korean⟩

theorem MmuOk.setMapperControl {m : Mmu} (h : MmuOk m) (hm : m.mapper = .sega) (v : Byte) : MmuOk (m.setMapperControl v) :=
  ⟨h.banks, h.rom, h.sysRam, h.cartRam, h.slots, fun e => absurd hm e, h.korean⟩

/-- A store keeps the MMU part of the invariant. -/
theorem MmuOk.write {m n : Mmu} (h : MmuOk m) {a : Word} {v : Byte} (hw : m.write a v = .ok n) : MmuOk n := by
  unfold Mmu.write at hw
  dsimp only at hw
  split at hw
  · have hs := h.putSysRam a.toNat v
    split at hw
    · next hm =>
      have hk (k : Nat) : (m.putSysRam a.toNat v).mapper = .korean → 2 ≤ k := fun e => by
        rw [show (m.putSysRam a.toNat v).mapper = m.mapper from rfl, hm] at e
        cases e
      split at hw
      · split at hw
        · cases hw
        · cases hw
          exact hs.setMapperControl hm v
      · split at hw
        · cases hw
          exact hs.setMapperSlot (hk 0) v
        · split at hw
          · cases hw
            exact hs.setMapperSlot (hk 1) v
          · split at hw
            · cases hw
              exact hs.setMapperSlot (hk 2) v
            · cases hw
              exact hs
    · cases hw
      exact hs
    · cases hw
      exact hs
  · next hi =>
    split at hw
    · next hl =>
      split at hw
      · cases hw
        exact h.putCartRam hl (Nat.lt_of_not_le hi) v
      · split at hw
        · cases hw
          exact h.setMapperSlot (fun _ => Nat.le_refl 2) v
        · split at hw
          · cases hw
            exact h.setMapperSlot (fun _ => Nat.le_refl 2) v
          · cases hw
            exact h
    · split at hw
      · next hc =>
        cases hw
        exact h.setMapperSlot (fun e => by rw [hc.1] at e; cases e) v
      · split at hw
        · next hc =>
          cases hw
          exact h.setMapperSlot (fun e => by rw [hc.1] at e; cases e) v
        · cases hw
          exact h

theorem MmuOk.stores {m n : Mmu} (h : MmuOk m) (hs : Stores m n) : MmuOk n := by
  induction hs with
  | refl => exact h
  | step a v _ hw ih => exact ih.write hw

/-! ### The VDP -/

theorem VdpOk.controlWord {v : Vdp} (h : VdpOk v) (w : Word) : VdpOk (v.controlWord w) := by
  unfold Vdp.controlWord
  dsimp only
  split <;> exact ⟨h.vram, h.cram, h.line, h.hCounter, h.vCounter, h.status⟩

theorem VdpOk.access {v w : Vdp} (h : VdpOk v) (ha : VdpAccess v w) : VdpOk w := by
  cases ha with
  | none => exact h
  | control x =>
    unfold Vdp.controlWrite
    split
    · exact VdpOk.controlWord (v := { v with pending := false }) ⟨h.vram, h.cram, h.line, h.hCounter, h.vCounter, h.status⟩ _
    · exact ⟨h.vram, h.cram, h.line, h.hCounter, h.vCounter, h.status⟩
  | data x =>
    unfold Vdp.dataWrite
    split
    · exact ⟨h.vram.write v.addr.isLt x, h.cram, h.line, h.hCounter, h.vCounter, h.status⟩
    · exact ⟨h.vram, h.cram.write (Nat.mod_lt _ (by decide)) x, h.line, h.hCounter, h.vCounter, h.status⟩
  | read => exact ⟨h.vram, h.cram, h.line, h.hCounter, h.vCounter, h.status⟩
  | status => exact ⟨h.vram, h.cram, h.line, h.hCounter, h.vCounter, by simp [Vdp.statusRead]⟩

/-- A port access leaves the counters alone. -/
theorem vdpAccess_counters {v w : Vdp} (ha : VdpAccess v w) :
    w.line = v.line ∧ w.hCounter = v.hCounter ∧ w.vCounter = v.vCounter ∧ w.lineCounter = v.lineCounter := by
  cases ha with
  | none => exact ⟨rfl, rfl, rfl, rfl⟩
  | control x =>
    unfold Vdp.controlWrite Vdp.controlWord
    dsimp only
    (repeat' split) <;> exact ⟨rfl, rfl, rfl, rfl⟩
  | data x =>
    unfold Vdp.dataWrite
    split <;> exact ⟨rfl, rfl, rfl, rfl⟩
  | read => exact ⟨rfl, rfl, rfl, rfl⟩
  | status => exact ⟨rfl, rfl, rfl, rfl⟩

/-! ### Advancing the VDP -/

/-- The VDP part of the invariant but for the horizontal counter, which `advance` first lets grow. -/
def VdpBut (v : Vdp) : Prop := VdpOk { v with hCounter := 0 }

theorem VdpOk.but {v : Vdp} (h : VdpOk v) (n : Nat) : VdpBut { v with hCounter := n } :=
  ⟨h.vram, h.cram, h.line, by simp, h.vCounter, h.status⟩

theorem VdpBut.ok {v : Vdp} (h : VdpBut v) (hn : v.hCounter < 228) : VdpOk v :=
  ⟨h.vram, h.cram, h.line, hn, h.vCounter, h.status⟩

theorem spriteStatus_low (v : Vdp) (sc : SpriteScan) (h : v.status &&& 0x1F = 0) : v.spriteStatus sc &&& 0x1F = 0 := by
  unfold Vdp.spriteStatus
  revert h
  generalize v.status = x
  cases sc.overflow <;> cases sc.collision <;> revert x <;> decide

theorem mem_putLine {l : List (Nat × List Rgba)} {y : Nat} {p : List Rgba} {x : Nat × List Rgba}
    (h : x ∈ putLine l y p) : x = (y, p) ∨ x ∈ l := by
  induction l with
  | nil => exact .inl (by simpa [Machine.putLine] using h)
  | cons c rest ih =>
    obtain ⟨k, m⟩ := c
    unfold Machine.putLine at h
    (repeat' split at h) <;> simp only [List.mem_cons] at h ⊢
    · exact h
    · rcases h with h | h
      · exact .inl h
      · exact .inr (.inr h)
    · rcases h with h | h
      · exact .inr (.inl h)
      · rcases ih h with h | h
        · exact .inl h
        · exact .inr (.inr h)

theorem ScreenOk.putLine {l : List (Nat × List Rgba)} (h : ScreenOk l) {y : Nat} (hy : y < 192) (f : Nat → Rgba) :
    ScreenOk (putLine l y (lineOf f)) := by
  have hf : (lineOf f).length = 256 := by simp [lineOf, Config.screenW]
  induction l with
  | nil => exact ⟨by simp [Machine.putLine], by simp [Machine.putLine, hy, hf]⟩
  | cons c rest ih =>
    obtain ⟨k, m⟩ := c
    have hp := List.pairwise_cons.1 h.1
    have hr : ScreenOk rest := ⟨hp.2, fun x hx => h.2 x (List.mem_cons_of_mem _ hx)⟩
    have hk := h.2 (k, m) (List.mem_cons_self ..)
    unfold Machine.putLine
    split
    · next lt =>
      refine ⟨List.pairwise_cons.2 ⟨fun x hx => ?_, h.1⟩, fun x hx => ?_⟩
      · rcases List.mem_cons.1 hx with rfl | hx
        · exact lt
        · exact Nat.lt_trans lt (hp.1 x hx)
      · rcases List.mem_cons.1 hx with rfl | hx
        · exact ⟨hy, hf⟩
        · exact h.2 x hx
    · split
      · next e =>
        subst e
        refine ⟨List.pairwise_cons.2 ⟨hp.1, hp.2⟩, fun x hx => ?_⟩
        rcases List.mem_cons.1 hx with rfl | hx
        · exact ⟨hy, hf⟩
        · exact hr.2 x hx
      · next n1 n2 =>
        have ih' := ih hr
        refine ⟨List.pairwise_cons.2 ⟨fun x hx => ?_, ih'.1⟩, fun x hx => ?_⟩
        · have : x = (y, lineOf f) ∨ x ∈ rest := mem_putLine hx
          rcases this with rfl | hx
          · show k < y
            omega
          · exact hp.1 x hx
        · rcases List.mem_cons.1 hx with rfl | hx
          · exact hk
          · exact ih'.2 x hx

end Safety

end Sys2Proof
end

