-- ==== Sys2Proof/Laws/Advance.lean ====
section
/-! SUPPORT. What advancing the VDP can change: two counters and the status byte of the VDP, the CPU's request, the outputs and the free
draws; where its position ends; and that it keeps the invariant. -/

namespace Sys2Proof.Machine.State

open Sys2Proof.Safety

variable (s : State)

/-- Rendering a line changes the status byte, the pixel buffer and the free draws. -/
theorem render_changes (y : Nat) : ∃ st f n,
    s.render y = { s with
      vdp := { s.vdp with status := st }
      outputs := { s.outputs with screen := putLine s.outputs.screen y (lineOf f) }
      freeDraws := n } ∧
    (s.vdp.status &&& 0x1F = 0 → st &&& 0x1F = 0) := by
  unfold render
  dsimp only
  split
  · exact ⟨_, _, _, rfl, id⟩
  · split
    · exact ⟨_, _, _, rfl, spriteStatus_low _ _⟩
    · exact ⟨_, _, _, rfl, id⟩

theorem render_elim {P : State → Prop} (u : State) (y : Nat)
    (h : ∀ st f n, (u.vdp.status &&& 0x1F = 0 → st &&& 0x1F = 0) → P { u with
      vdp := { u.vdp with status := st }
      outputs := { u.outputs with screen := putLine u.outputs.screen y (lineOf f) }
      freeDraws := n }) : P (u.render y) := by
  obtain ⟨st, f, n, e, hs⟩ := u.render_changes y
  rw [e]
  exact h st f n hs

theorem lineCounterEvent_changes (v : Vdp) (l : Nat) : ∃ lc b, v.lineCounterEvent l = ({ v with lineCounter := lc }, b) := by
  unfold Vdp.lineCounterEvent
  (repeat' split) <;> exact ⟨_, _, rfl⟩

/-- The state after scanline crossings: everything but what is named is as before. -/
def crossed (k : Nat) (st lc : Byte) (p : Bool) (scr : List (Nat × List Rgba)) (fr : Bool) (n : Nat) : State :=
  { s with
    vdp := { s.vdp with
      hCounter := s.vdp.hCounter - 228 * k
      line := (s.vdp.line + k) % 262
      vCounter := if k = 0 then s.vdp.vCounter else vcount ((s.vdp.line + k) % 262)
      status := st
      lineCounter := lc }
    pendingInt := p
    outputs := { screen := scr, frameDone := fr, audio := s.outputs.audio }
    freeDraws := n }

/-- `t` is `s` after `k` scanline crossings: what else holds of the values that changed. -/
def Crossed (k : Nat) (fr : Bool) (t : State) : Prop :=
  ∃ st lc p scr n, t = s.crossed k st lc p scr fr n ∧ (s.vdp.status &&& 0x1F = 0 → st &&& 0x1F = 0) ∧
    (s.pendingInt = true → p = true) ∧ (ScreenOk s.outputs.screen → ScreenOk scr)

/-- One crossing. -/
theorem crossLine_changes :
    s.Crossed 1 (s.outputs.frameDone || decide ((s.vdp.line + 1) % 262 = 0)) s.crossLine := by
  obtain ⟨lc, b, h⟩ := lineCounterEvent_changes
    { s.vdp with hCounter := s.vdp.hCounter - 228, line := (s.vdp.line + 1) % 262, vCounter := vcount ((s.vdp.line + 1) % 262) }
    ((s.vdp.line + 1) % 262)
  have hst : ∀ x : Byte, x &&& 0x1F = 0 → (x ||| 0x80) &&& 0x1F = 0 := by decide
  unfold crossLine
  simp only [Config.linesPerFrame, Config.cyclesPerLine, Config.activeLines, h, Vdp.frameInterruptEvent]
  clear h
  by_cases h0 : (s.vdp.line + 1) % 262 = 0
  · have hd : ¬ s.vdp.line < 192 := by omega
    rw [decide_eq_true h0, Bool.or_true]
    simp only [h0, if_true, hd, if_false, show ¬ (0 = 192) by decide]
    exact ⟨_, _, _, _, _, by rw [crossed, h0]; rfl, id, fun e => by rw [e]; rfl, id⟩
  · rw [decide_eq_false h0, Bool.or_false]
    simp only [h0, if_false]
    by_cases hd : s.vdp.line < 192
    · simp only [hd, if_true]
      by_cases hf : (s.vdp.line + 1) % 262 = 192
      · simp only [hf, if_true]
        exact render_elim _ _ fun st f n hs => ⟨st, lc, _, _, n,
          by simp only [crossed, hf, Nat.one_ne_zero, if_false, Nat.mul_one]; rfl,
          fun e => hs (hst _ e), fun e => by rw [e]; rfl, fun e => e.putLine hd f⟩
      · simp only [hf, if_false]
        exact render_elim _ _ fun st f n hs => ⟨st, lc, _, _, n,
          by simp only [crossed, Nat.one_ne_zero, if_false, Nat.mul_one]; rfl,
          hs, fun e => by rw [e]; rfl, fun e => e.putLine hd f⟩
    · simp only [hd, if_false]
      by_cases hf : (s.vdp.line + 1) % 262 = 192
      · simp only [hf, if_true]
        exact ⟨_, _, _, _, _, by rw [crossed, hf]; rfl, fun e => hst _ e, fun e => by rw [e]; rfl, id⟩
      · simp only [hf, if_false]
        exact ⟨_, _, _, _, _, rfl, id, fun e => by rw [e]; rfl, id⟩

/-- Any number of crossings. -/
theorem crossLines_changes (k : Nat) (hl : s.vdp.line < 262) :
    s.Crossed k (s.outputs.frameDone || decide (262 ≤ s.vdp.line + k)) (crossLines k s) := by
  induction k generalizing s with
  | zero =>
    refine ⟨s.vdp.status, s.vdp.lineCounter, s.pendingInt, s.outputs.screen, s.freeDraws, ?_, id, id, id⟩
    have : decide (262 ≤ s.vdp.line + 0) = false := by simp; omega
    rw [this]
    simp only [crossLines, crossed, Bool.or_false, Nat.add_zero, Nat.mod_eq_of_lt hl, Nat.mul_zero, Nat.sub_zero, if_true]
  | succ k ih =>
    obtain ⟨st, lc, p, scr, n, h, h1, h2, h3⟩ := s.crossLine_changes
    have hl' : (s.crossLine).vdp.line < 262 := by
      rw [h]
      exact Nat.mod_lt _ (by decide)
    obtain ⟨st', lc', p', scr', n', h', h1', h2', h3'⟩ := ih s.crossLine hl'
    refine ⟨st', lc', p', scr', n', ?_, fun e => h1' (by rw [h]; exact h1 e), fun e => h2' (by rw [h]; exact h2 e),
      fun e => h3' (by rw [h]; exact h3 e)⟩
    rw [crossLines, h', h]
    have e1 : ((s.vdp.line + 1) % 262 + k) % 262 = (s.vdp.line + (k + 1)) % 262 := by omega
    have e2 : s.vdp.hCounter - 228 * 1 - 228 * k = s.vdp.hCounter - 228 * (k + 1) := by omega
    have e3 : (s.outputs.frameDone || decide ((s.vdp.line + 1) % 262 = 0) || decide (262 ≤ (s.vdp.line + 1) % 262 + k)) =
        (s.outputs.frameDone || decide (262 ≤ s.vdp.line + (k + 1))) := by
      rw [Bool.or_assoc, ← Bool.decide_or]
      congr 1
      exact decide_eq_decide.2 (by omega)
    have e4 : (if k = 0 then vcount ((s.vdp.line + 1) % 262) else vcount ((s.vdp.line + (k + 1)) % 262)) =
        vcount ((s.vdp.line + (k + 1)) % 262) := by
      split
      · next e => rw [e]
      · rfl
    simp only [crossed, e1, e2, e3, Nat.succ_ne_zero, if_false, e4]

/-- All an advance can do. -/
theorem advance_changes (n : Nat) (hl : s.vdp.line < 262) :
    Crossed { s with vdp := { s.vdp with hCounter := s.vdp.hCounter + n }, outputs := { s.outputs with frameDone := false } }
      ((s.vdp.hCounter + n) / 228) (decide (262 ≤ s.vdp.line + (s.vdp.hCounter + n) / 228)) (s.advance n) := by
  have h := crossLines_changes
    { s with vdp := { s.vdp with hCounter := s.vdp.hCounter + n }, outputs := { s.outputs with frameDone := false } }
    ((s.vdp.hCounter + n) / 228) hl
  rwa [Bool.false_or] at h

end Sys2Proof.Machine.State

namespace Sys2Proof.Safety

open Sys2Proof.Machine

/-- An advance keeps the invariant. -/
theorem Inv.advance {s : State} (h : Inv s) (n : Nat) : Inv (s.advance n) := by
  obtain ⟨st, lc, p, scr, d, e, h1, _, h3⟩ := s.advance_changes n h.vdp.line
  rw [e]
  refine ⟨h.mmu, ⟨h.vdp.vram, h.vdp.cram, Nat.mod_lt _ (by decide), ?_, ?_, h1 h.vdp.status⟩, h.fifo, h3 h.screen⟩
  · show s.vdp.hCounter + n - 228 * ((s.vdp.hCounter + n) / 228) < 228
    omega
  · show (if _ then s.vdp.vCounter else _) = vcount _
    split
    · next e0 =>
      show _ = vcount ((s.vdp.line + (s.vdp.hCounter + n) / 228) % 262)
      rw [e0, Nat.add_zero, Nat.mod_eq_of_lt h.vdp.line, h.vdp.vCounter]
    · rfl

end Sys2Proof.Safety
end

