-- ==== Sys2Proof/Laws/Driver.lean ====
section
/-! SUPPORT. Everything one CPU step, one turn and one step of the machine can do. -/

namespace Sys2Proof.Machine

open Sys2Proof.Safety

/-- What a CPU step leaves alone or changes in one way only. -/
structure StepRuns (s t : State) : Prop where
  mmu      : Stores s.mmu t.mmu
  vdp      : VdpAccess s.vdp t.vdp
  psg      : t.psg = s.psg ∨ ∃ v, t.psg = s.psg.write v s.cycles
  int      : t.pendingInt = true → s.pendingInt = true
  nmi      : t.pendingNmi = true → s.pendingNmi = true
  inputs   : t.inputs = s.inputs
  outputs  : t.outputs = s.outputs
  schedule : t.schedule = s.schedule
  cycles   : s.cycles + 4 ≤ t.cycles ∧ t.cycles ≤ s.cycles + 23

/-- The faults of a step (R460, R461). -/
def StepFault (s : State) : Fault → Prop
  | .unimplementedOpcode table op => s.fetch = .unset table op
  | .unsupportedMapperControl v =>
    s.mmu.mapper = .sega ∧ (v.getLsbD 4 = true ∨ v.getLsbD 1 = true ∨ v.getLsbD 0 = true)

/-- A CPU step is a next state meeting `StepRuns` or one of the two faults. -/
def StepEnds (s : State) : Result → Prop
  | .next t => StepRuns s t
  | .fault f => StepFault s f
  | .refused _ => False

/-- The outcome of `acceptInterrupt` after the request was withdrawn. -/
theorem acceptInterrupt_ends (s : State) (b : Bool) (vector : State → Word) {n : Nat} (hn : 4 ≤ n ∧ n ≤ 23) :
    StepEnds s (s.acceptInterrupt b vector n) := by
  unfold State.acceptInterrupt
  have h := State.push16_ends { s with halted := false, iff1 := false, iff2 := b } s.pc
  cases hp : { s with halted := false, iff1 := false, iff2 := b }.push16 s.pc with
  | next t =>
    rw [hp] at h
    have hc : t.cycles = s.cycles := h.cycles
    exact ⟨h.around.mmu, h.around.vdp, h.around.psg, h.around.int, fun e => (h.around.nmi ▸ e : s.pendingNmi = true),
      h.around.inputs, h.around.outputs, h.around.schedule, by
        show s.cycles + 4 ≤ t.cycles + n ∧ t.cycles + n ≤ s.cycles + 23
        omega⟩
  | fault f =>
    rw [hp] at h
    obtain ⟨hm, v, rfl, hv⟩ := h
    exact ⟨hm, hv⟩
  | refused r =>
    rw [hp] at h
    exact h.elim

theorem StepEnds.of_cleared {s u : State} {o : Result} (h : StepEnds u o) (hm : u.mmu = s.mmu) (hv : u.vdp = s.vdp)
    (hp : u.psg = s.psg) (hi : u.pendingInt = true → s.pendingInt = true) (hn : u.pendingNmi = true → s.pendingNmi = true)
    (ho : u.inputs = s.inputs ∧ u.outputs = s.outputs ∧ u.schedule = s.schedule) (hc : u.cycles = s.cycles)
    (hf : u.pc = s.pc) : StepEnds s o := by
  cases o with
  | next t =>
    exact ⟨hm ▸ h.mmu, hv ▸ h.vdp, by rw [← hp, ← hc]; exact h.psg, fun e => hi (h.int e), fun e => hn (h.nmi e),
      h.inputs.trans ho.1, h.outputs.trans ho.2.1, h.schedule.trans ho.2.2, hc ▸ h.cycles⟩
  | fault f =>
    cases f with
    | unimplementedOpcode table op =>
      show s.fetch = _
      have : s.fetch = u.fetch := by unfold State.fetch State.decodeFrom State.read; rw [hm, hf]
      rw [this]
      exact h
    | unsupportedMapperControl v =>
      show s.mmu.mapper = .sega ∧ _
      rw [← hm]
      exact h
  | refused r => exact h.elim

theorem runInstruction_ends (s : State) : StepEnds s s.runInstruction := by
  unfold State.runInstruction
  split
  · next table i e =>
    have h := exec_ends i (s.bumpR (fetchCount table))
    cases hx : exec i (s.bumpR (fetchCount table)) with
    | next t =>
      rw [hx] at h
      exact ⟨h.around.mmu, h.around.vdp, h.around.psg, h.around.int, fun e => (h.around.nmi ▸ e : s.pendingNmi = true),
        h.around.inputs, h.around.outputs, h.around.schedule, h.cycles⟩
    | fault f =>
      rw [hx] at h
      obtain ⟨hm, v, rfl, hv⟩ := h
      exact ⟨hm, hv⟩
    | refused r =>
      rw [hx] at h
      exact h.elim
  · next table op e => exact e

theorem acceptNmi_ends (s : State) : StepEnds s s.acceptNmi :=
  StepEnds.of_cleared (u := { s with pendingNmi := false })
    (acceptInterrupt_ends { s with pendingNmi := false } s.iff2 (fun _ => Config.nmiVector) (n := 11) (by decide))
    rfl rfl rfl id (fun e => Bool.noConfusion e) ⟨rfl, rfl, rfl⟩ rfl rfl

theorem intCost_within (s : State) : 4 ≤ s.intCost ∧ s.intCost ≤ 23 := by
  unfold State.intCost
  split <;> decide

theorem acceptInt_ends (s : State) : StepEnds s s.acceptInt :=
  StepEnds.of_cleared (u := { s with pendingInt := false })
    (acceptInterrupt_ends { s with pendingInt := false } false State.intVector (n := s.intCost) (intCost_within s))
    rfl rfl rfl (fun e => Bool.noConfusion e) id ⟨rfl, rfl, rfl⟩ rfl rfl

theorem idle_ends (s : State) : StepEnds s (.next s.idle) :=
  ⟨.refl _, .none, .inl rfl, id, id, rfl, rfl, rfl, ⟨Nat.le_refl _, Nat.add_le_add_left (by decide) _⟩⟩

/-- Everything a CPU step can do. -/
theorem cpuStep_ends (s : State) : StepEnds s s.cpuStep := by
  have cleared {o : Result} (h : StepEnds { s with postEi := false } o) : StepEnds s o :=
    h.of_cleared rfl rfl rfl id id ⟨rfl, rfl, rfl⟩ rfl rfl
  unfold State.cpuStep
  dsimp only
  split
  · exact cleared (acceptNmi_ends _)
  · split
    · exact cleared (acceptInt_ends _)
    · split
      · exact cleared (idle_ends _)
      · exact cleared (runInstruction_ends _)

theorem cpuStep_next {s t : State} (h : s.cpuStep = .next t) : StepRuns s t := by
  have := cpuStep_ends s
  rw [h] at this
  exact this

/-- A driver turn is a CPU step and an advance of the VDP. -/
theorem driverTurn_next {s t : State} (h : s.driverTurn = .next t) :
    ∃ u, s.cpuStep = .next u ∧ t = u.advance (u.cycles - s.cycles) := by
  obtain ⟨u, h1, h2⟩ := andThen_eq_next h
  cases h2
  exact ⟨u, h1, rfl⟩

/-- The mixer's turn takes events from the head of the FIFO and touches nothing outside the PSG and the samples. -/
theorem drain_fifo (p : Psg) (l : List PsgEvent) : ∃ k, (p.drain l).fifo = l.drop k := by
  induction l generalizing p with
  | nil => exact ⟨0, rfl⟩
  | cons e rest ih =>
    unfold Psg.drain
    split
    · obtain ⟨k, h⟩ := ih (p.apply e.byte)
      exact ⟨k + 1, h⟩
    · exact ⟨0, rfl⟩

/-- What a teardown keeps. -/
@[simp] theorem State.torndown_schedule (s : State) (p : ResetParams) : (s.torndown p).schedule = s.schedule := rfl
@[simp] theorem State.torndown_freeDraws (s : State) (p : ResetParams) : (s.torndown p).freeDraws = s.freeDraws := rfl

theorem mixOne_fifo (p : Psg) : ∃ k, p.mixOne.2.fifo = p.fifo.drop k := drain_fifo p p.fifo

end Sys2Proof.Machine

namespace Sys2Proof.Safety

open Sys2Proof.Machine

theorem FifoOk.drop {l : List PsgEvent} {n : Nat} (h : FifoOk l n) (k : Nat) : FifoOk (l.drop k) n :=
  ⟨h.1.sublist (List.drop_sublist k l), fun e he => h.2 e (List.mem_of_mem_drop he)⟩

theorem FifoOk.write {p : Psg} {n m : Nat} (h : FifoOk p.fifo n) (hm : n ≤ m) (v : Byte) : FifoOk (p.write v n).fifo m := by
  refine ⟨List.pairwise_append.2 ⟨h.1, List.pairwise_singleton _ _, fun x hx y hy => ?_⟩, fun e he => ?_⟩
  · rw [List.mem_singleton.1 hy]
    exact h.2 x hx
  · rcases List.mem_append.1 he with he | he
    · exact Nat.le_trans (h.2 e he) hm
    · rw [List.mem_singleton.1 he]
      exact hm

/-- A CPU step keeps the invariant. -/
theorem Inv.stepRuns {s t : State} (h : Inv s) (hr : StepRuns s t) : Inv t := by
  have hc : s.cycles ≤ t.cycles := by have := hr.cycles.1; omega
  refine ⟨h.mmu.stores hr.mmu, h.vdp.access hr.vdp, ?_, hr.outputs ▸ h.screen⟩
  rcases hr.psg with e | ⟨v, e⟩
  · rw [e]
    exact ⟨h.fifo.1, fun x hx => Nat.le_trans (h.fifo.2 x hx) hc⟩
  · rw [e]
    exact h.fifo.write hc v

end Sys2Proof.Safety
end

