-- ==== Sys2Proof/Laws/Mnemonic.lean ====
section
/-! SUPPORT. Laws of the formatted mnemonic and of `decodeAt` (R489 of spec/60_exceptions.md). -/

namespace Sys2Proof

namespace Machine

/-- `decodeAt` returns as many bytes as the length it returns (R489). -/
theorem State.decodeAt_bytes_length (s : State) (a : Word) : (s.decodeAt a).bytes.length = (s.decodeAt a).length := by
  unfold State.decodeAt
  split <;> simp

/-- Where the bytes are an instruction, `decodeAt` returns its length and its mnemonic (R489). -/
theorem State.decodeAt_instr {s : State} {a : Word} {t : OpTable} {i : Instr} (h : s.decodeFrom a = .instr t i) :
    (s.decodeAt a).length = i.length ∧ (s.decodeAt a).mnemonic = i.mnemonic ∧ (s.decodeAt a).instr = some i := by
  simp [State.decodeAt, h]

/-- Where the bytes are an unset entry, `decodeAt` returns a length and a mnemonic too, never a fault (R489). -/
theorem State.decodeAt_unset {s : State} {a : Word} {t : OpTable} {op : Byte} (h : s.decodeFrom a = .unset t op) :
    (s.decodeAt a).length = State.unsetLength t ∧ (s.decodeAt a).mnemonic = State.unsetMnemonic ∧ (s.decodeAt a).instr = none := by
  simp [State.decodeAt, h]

end Machine

end Sys2Proof
end

