-- ==== Sys2Proof/Laws/PerInstr.lean ====
section
/-! SUPPORT. One lemma for each constructor: the bytes that encode a well-formed instruction decode to it, whatever bytes come after them
(`DecodeEncode`). -/

namespace Sys2Proof.Laws.DecodeEncode

open Sys2Proof.Safety

/-- The encoding of `i` decodes to `i`, at every value of its operands. -/
def Statement (i : Instr) : Prop :=
  i.wf = true → ∀ b0 b1 b2 b3 : Byte, encode i <+: [b0, b1, b2, b3] → decode b0 b1 b2 b3 = .instr (tableAt b0 b1) i

/-- The values of a three-bit field. -/
theorem eight (b : BitVec 3) : b = 0 ∨ b = 1 ∨ b = 2 ∨ b = 3 ∨ b = 4 ∨ b = 5 ∨ b = 6 ∨ b = 7 := by
  revert b
  decide

theorem one {a b0 b1 b2 b3 : Byte} (h : [a] <+: [b0, b1, b2, b3]) : b0 = a := by
  simpa using (List.cons_prefix_cons.1 h).1.symm

theorem two {a b b0 b1 b2 b3 : Byte} (h : [a, b] <+: [b0, b1, b2, b3]) : b0 = a ∧ b1 = b :=
  ⟨(List.cons_prefix_cons.1 h).1.symm, one (b2 := b3) (b3 := b3) (b1 := b2)
    (by
      have h' := (List.cons_prefix_cons.1 h).2
      exact List.cons_prefix_cons.2 ⟨(List.cons_prefix_cons.1 h').1, List.nil_prefix⟩)⟩

theorem three {a b c b0 b1 b2 b3 : Byte} (h : [a, b, c] <+: [b0, b1, b2, b3]) : b0 = a ∧ b1 = b ∧ b2 = c := by
  have h1 := List.cons_prefix_cons.1 h
  have h2 := List.cons_prefix_cons.1 h1.2
  have h3 := List.cons_prefix_cons.1 h2.2
  exact ⟨h1.1.symm, h2.1.symm, h3.1.symm⟩

theorem four {a b c d b0 b1 b2 b3 : Byte} (h : [a, b, c, d] <+: [b0, b1, b2, b3]) :
    b0 = a ∧ b1 = b ∧ b2 = c ∧ b3 = d := by
  have h1 := List.cons_prefix_cons.1 h
  have h2 := List.cons_prefix_cons.1 h1.2
  have h3 := List.cons_prefix_cons.1 h2.2
  have h4 := List.cons_prefix_cons.1 h3.2
  exact ⟨h1.1.symm, h2.1.symm, h3.1.symm, h4.1.symm⟩

theorem nop : Statement .nop := by
  intro _ b0 b1 b2 b3 hp
  obtain rfl := one hp
  rfl

theorem exAfAf : Statement .exAfAf := by
  intro _ b0 b1 b2 b3 hp
  obtain rfl := one hp
  rfl

theorem djnzE (e : Byte) : Statement (.djnzE e) := by
  intro _ b0 b1 b2 b3 hp
  obtain ⟨rfl, rfl⟩ := two hp
  rfl

theorem jrE (e : Byte) : Statement (.jrE e) := by
  intro _ b0 b1 b2 b3 hp
  obtain ⟨rfl, rfl⟩ := two hp
  rfl

theorem jrNzE (e : Byte) : Statement (.jrNzE e) := by
  intro _ b0 b1 b2 b3 hp
  obtain ⟨rfl, rfl⟩ := two hp
  rfl

theorem jrZE (e : Byte) : Statement (.jrZE e) := by
  intro _ b0 b1 b2 b3 hp
  obtain ⟨rfl, rfl⟩ := two hp
  rfl

theorem jrNcE (e : Byte) : Statement (.jrNcE e) := by
  intro _ b0 b1 b2 b3 hp
  obtain ⟨rfl, rfl⟩ := two hp
  rfl

theorem jrCE (e : Byte) : Statement (.jrCE e) := by
  intro _ b0 b1 b2 b3 hp
  obtain ⟨rfl, rfl⟩ := two hp
  rfl

theorem ldDdNn (p : Pair) (nn : Word) : Statement (.ldDdNn p nn) := by
  intro _ b0 b1 b2 b3 hp
  obtain ⟨rfl, rfl, rfl⟩ := three hp
  cases p <;> exact congrArg (fun v => Decoded.instr _ (.ldDdNn _ v)) (wordOf_hiByte_loByte nn)

theorem addHlSs (p : Pair) : Statement (.addHlSs p) := by
  intro _ b0 b1 b2 b3 hp
  obtain rfl := one hp
  cases p <;> rfl

theorem ldIndBcA : Statement .ldIndBcA := by
  intro _ b0 b1 b2 b3 hp
  obtain rfl := one hp
  rfl

theorem ldAIndBc : Statement .ldAIndBc := by
  intro _ b0 b1 b2 b3 hp
  obtain rfl := one hp
  rfl

theorem ldIndDeA : Statement .ldIndDeA := by
  intro _ b0 b1 b2 b3 hp
  obtain rfl := one hp
  rfl

theorem ldAIndDe : Statement .ldAIndDe := by
  intro _ b0 b1 b2 b3 hp
  obtain rfl := one hp
  rfl

theorem ldIndNnHl (nn : Word) : Statement (.ldIndNnHl nn) := by
  intro _ b0 b1 b2 b3 hp
  obtain ⟨rfl, rfl, rfl⟩ := three hp
  exact congrArg (fun v => Decoded.instr _ (.ldIndNnHl v)) (wordOf_hiByte_loByte nn)

theorem ldHlIndNn (nn : Word) : Statement (.ldHlIndNn nn) := by
  intro _ b0 b1 b2 b3 hp
  obtain ⟨rfl, rfl, rfl⟩ := three hp
  exact congrArg (fun v => Decoded.instr _ (.ldHlIndNn v)) (wordOf_hiByte_loByte nn)

theorem ldIndNnA (nn : Word) : Statement (.ldIndNnA nn) := by
  intro _ b0 b1 b2 b3 hp
  obtain ⟨rfl, rfl, rfl⟩ := three hp
  exact congrArg (fun v => Decoded.instr _ (.ldIndNnA v)) (wordOf_hiByte_loByte nn)

theorem ldAIndNn (nn : Word) : Statement (.ldAIndNn nn) := by
  intro _ b0 b1 b2 b3 hp
  obtain ⟨rfl, rfl, rfl⟩ := three hp
  exact congrArg (fun v => Decoded.instr _ (.ldAIndNn v)) (wordOf_hiByte_loByte nn)

theorem incSs (p : Pair) : Statement (.incSs p) := by
  intro _ b0 b1 b2 b3 hp
  obtain rfl := one hp
  cases p <;> rfl

theorem decSs (p : Pair) : Statement (.decSs p) := by
  intro _ b0 b1 b2 b3 hp
  obtain rfl := one hp
  cases p <;> rfl

theorem incR (r : Reg8) : Statement (.incR r) := by
  intro _ b0 b1 b2 b3 hp
  obtain rfl := one hp
  cases r <;> rfl

theorem incIndHl : Statement .incIndHl := by
  intro _ b0 b1 b2 b3 hp
  obtain rfl := one hp
  rfl

theorem decR (r : Reg8) : Statement (.decR r) := by
  intro _ b0 b1 b2 b3 hp
  obtain rfl := one hp
  cases r <;> rfl

theorem decIndHl : Statement .decIndHl := by
  intro _ b0 b1 b2 b3 hp
  obtain rfl := one hp
  rfl

theorem ldRN (r : Reg8) (n : Byte) : Statement (.ldRN r n) := by
  intro _ b0 b1 b2 b3 hp
  obtain ⟨rfl, rfl⟩ := two hp
  cases r <;> rfl

theorem ldIndHlN (n : Byte) : Statement (.ldIndHlN n) := by
  intro _ b0 b1 b2 b3 hp
  obtain ⟨rfl, rfl⟩ := two hp
  rfl

theorem rlca : Statement .rlca := by
  intro _ b0 b1 b2 b3 hp
  obtain rfl := one hp
  rfl

theorem rrca : Statement .rrca := by
  intro _ b0 b1 b2 b3 hp
  obtain rfl := one hp
  rfl

theorem rla : Statement .rla := by
  intro _ b0 b1 b2 b3 hp
  obtain rfl := one hp
  rfl

theorem rra : Statement .rra := by
  intro _ b0 b1 b2 b3 hp
  obtain rfl := one hp
  rfl

theorem daa : Statement .daa := by
  intro _ b0 b1 b2 b3 hp
  obtain rfl := one hp
  rfl

theorem cpl : Statement .cpl := by
  intro _ b0 b1 b2 b3 hp
  obtain rfl := one hp
  rfl

theorem scf : Statement .scf := by
  intro _ b0 b1 b2 b3 hp
  obtain rfl := one hp
  rfl

theorem ccf : Statement .ccf := by
  intro _ b0 b1 b2 b3 hp
  obtain rfl := one hp
  rfl

theorem ldRR (r : Reg8) (q : Reg8) : Statement (.ldRR r q) := by
  intro _ b0 b1 b2 b3 hp
  obtain rfl := one hp
  cases r <;> cases q <;> rfl

theorem ldRIndHl (r : Reg8) : Statement (.ldRIndHl r) := by
  intro _ b0 b1 b2 b3 hp
  obtain rfl := one hp
  cases r <;> rfl

theorem ldIndHlR (r : Reg8) : Statement (.ldIndHlR r) := by
  intro _ b0 b1 b2 b3 hp
  obtain rfl := one hp
  cases r <;> rfl

theorem halt : Statement .halt := by
  intro _ b0 b1 b2 b3 hp
  obtain rfl := one hp
  rfl

theorem addAR (r : Reg8) : Statement (.addAR r) := by
  intro _ b0 b1 b2 b3 hp
  obtain rfl := one hp
  cases r <;> rfl

theorem addAIndHl : Statement .addAIndHl := by
  intro _ b0 b1 b2 b3 hp
  obtain rfl := one hp
  rfl

theorem addAN (n : Byte) : Statement (.addAN n) := by
  intro _ b0 b1 b2 b3 hp
  obtain ⟨rfl, rfl⟩ := two hp
  rfl

theorem adcAR (r : Reg8) : Statement (.adcAR r) := by
  intro _ b0 b1 b2 b3 hp
  obtain rfl := one hp
  cases r <;> rfl

theorem adcAIndHl : Statement .adcAIndHl := by
  intro _ b0 b1 b2 b3 hp
  obtain rfl := one hp
  rfl

theorem adcAN (n : Byte) : Statement (.adcAN n) := by
  intro _ b0 b1 b2 b3 hp
  obtain ⟨rfl, rfl⟩ := two hp
  rfl

theorem subR (r : Reg8) : Statement (.subR r) := by
  intro _ b0 b1 b2 b3 hp
  obtain rfl := one hp
  cases r <;> rfl

theorem subIndHl : Statement .subIndHl := by
  intro _ b0 b1 b2 b3 hp
  obtain rfl := one hp
  rfl

theorem subN (n : Byte) : Statement (.subN n) := by
  intro _ b0 b1 b2 b3 hp
  obtain ⟨rfl, rfl⟩ := two hp
  rfl

theorem sbcAR (r : Reg8) : Statement (.sbcAR r) := by
  intro _ b0 b1 b2 b3 hp
  obtain rfl := one hp
  cases r <;> rfl

theorem sbcAIndHl : Statement .sbcAIndHl := by
  intro _ b0 b1 b2 b3 hp
  obtain rfl := one hp
  rfl

theorem sbcAN (n : Byte) : Statement (.sbcAN n) := by
  intro _ b0 b1 b2 b3 hp
  obtain ⟨rfl, rfl⟩ := two hp
  rfl

theorem andR (r : Reg8) : Statement (.andR r) := by
  intro _ b0 b1 b2 b3 hp
  obtain rfl := one hp
  cases r <;> rfl

theorem andIndHl : Statement .andIndHl := by
  intro _ b0 b1 b2 b3 hp
  obtain rfl := one hp
  rfl

theorem andN (n : Byte) : Statement (.andN n) := by
  intro _ b0 b1 b2 b3 hp
  obtain ⟨rfl, rfl⟩ := two hp
  rfl

theorem xorR (r : Reg8) : Statement (.xorR r) := by
  intro _ b0 b1 b2 b3 hp
  obtain rfl := one hp
  cases r <;> rfl

theorem xorIndHl : Statement .xorIndHl := by
  intro _ b0 b1 b2 b3 hp
  obtain rfl := one hp
  rfl

theorem xorN (n : Byte) : Statement (.xorN n) := by
  intro _ b0 b1 b2 b3 hp
  obtain ⟨rfl, rfl⟩ := two hp
  rfl

theorem orR (r : Reg8) : Statement (.orR r) := by
  intro _ b0 b1 b2 b3 hp
  obtain rfl := one hp
  cases r <;> rfl

theorem orIndHl : Statement .orIndHl := by
  intro _ b0 b1 b2 b3 hp
  obtain rfl := one hp
  rfl

theorem orN (n : Byte) : Statement (.orN n) := by
  intro _ b0 b1 b2 b3 hp
  obtain ⟨rfl, rfl⟩ := two hp
  rfl

theorem cpR (r : Reg8) : Statement (.cpR r) := by
  intro _ b0 b1 b2 b3 hp
  obtain rfl := one hp
  cases r <;> rfl

theorem cpIndHl : Statement .cpIndHl := by
  intro _ b0 b1 b2 b3 hp
  obtain rfl := one hp
  rfl

theorem cpN (n : Byte) : Statement (.cpN n) := by
  intro _ b0 b1 b2 b3 hp
  obtain ⟨rfl, rfl⟩ := two hp
  rfl

theorem retCc (cc : Cond) : Statement (.retCc cc) := by
  intro _ b0 b1 b2 b3 hp
  obtain rfl := one hp
  cases cc <;> rfl

theorem popQq (p : QPair) : Statement (.popQq p) := by
  intro _ b0 b1 b2 b3 hp
  obtain rfl := one hp
  cases p <;> rfl

theorem ret : Statement .ret := by
  intro _ b0 b1 b2 b3 hp
  obtain rfl := one hp
  rfl

theorem exx : Statement .exx := by
  intro _ b0 b1 b2 b3 hp
  obtain rfl := one hp
  rfl

theorem jpHl : Statement .jpHl := by
  intro _ b0 b1 b2 b3 hp
  obtain rfl := one hp
  rfl

theorem ldSpHl : Statement .ldSpHl := by
  intro _ b0 b1 b2 b3 hp
  obtain rfl := one hp
  rfl

theorem jpCcNn (cc : Cond) (nn : Word) : Statement (.jpCcNn cc nn) := by
  intro _ b0 b1 b2 b3 hp
  obtain ⟨rfl, rfl, rfl⟩ := three hp
  cases cc <;> exact congrArg (fun v => Decoded.instr _ (.jpCcNn _ v)) (wordOf_hiByte_loByte nn)

theorem jpNn (nn : Word) : Statement (.jpNn nn) := by
  intro _ b0 b1 b2 b3 hp
  obtain ⟨rfl, rfl, rfl⟩ := three hp
  exact congrArg (fun v => Decoded.instr _ (.jpNn v)) (wordOf_hiByte_loByte nn)

theorem outPortNA (n : Byte) : Statement (.outPortNA n) := by
  intro _ b0 b1 b2 b3 hp
  obtain ⟨rfl, rfl⟩ := two hp
  rfl

theorem inAPortN (n : Byte) : Statement (.inAPortN n) := by
  intro _ b0 b1 b2 b3 hp
  obtain ⟨rfl, rfl⟩ := two hp
  rfl

theorem exIndSpHl : Statement .exIndSpHl := by
  intro _ b0 b1 b2 b3 hp
  obtain rfl := one hp
  rfl

theorem exDeHl : Statement .exDeHl := by
  intro _ b0 b1 b2 b3 hp
  obtain rfl := one hp
  rfl

theorem di : Statement .di := by
  intro _ b0 b1 b2 b3 hp
  obtain rfl := one hp
  rfl

theorem ei : Statement .ei := by
  intro _ b0 b1 b2 b3 hp
  obtain rfl := one hp
  rfl

theorem callCcNn (cc : Cond) (nn : Word) : Statement (.callCcNn cc nn) := by
  intro _ b0 b1 b2 b3 hp
  obtain ⟨rfl, rfl, rfl⟩ := three hp
  cases cc <;> exact congrArg (fun v => Decoded.instr _ (.callCcNn _ v)) (wordOf_hiByte_loByte nn)

theorem pushQq (p : QPair) : Statement (.pushQq p) := by
  intro _ b0 b1 b2 b3 hp
  obtain rfl := one hp
  cases p <;> rfl

theorem callNn (nn : Word) : Statement (.callNn nn) := by
  intro _ b0 b1 b2 b3 hp
  obtain ⟨rfl, rfl, rfl⟩ := three hp
  exact congrArg (fun v => Decoded.instr _ (.callNn v)) (wordOf_hiByte_loByte nn)

theorem rstP (t : BitVec 3) : Statement (.rstP t) := by
  intro _ b0 b1 b2 b3 hp
  obtain rfl := one hp
  rcases eight t with rfl | rfl | rfl | rfl | rfl | rfl | rfl | rfl <;> rfl

theorem rlcR (r : Reg8) : Statement (.rlcR r) := by
  intro _ b0 b1 b2 b3 hp
  obtain ⟨rfl, rfl⟩ := two hp
  cases r <;> rfl

theorem rlcIndHl : Statement .rlcIndHl := by
  intro _ b0 b1 b2 b3 hp
  obtain ⟨rfl, rfl⟩ := two hp
  rfl

theorem rrcR (r : Reg8) : Statement (.rrcR r) := by
  intro _ b0 b1 b2 b3 hp
  obtain ⟨rfl, rfl⟩ := two hp
  cases r <;> rfl

theorem rrcIndHl : Statement .rrcIndHl := by
  intro _ b0 b1 b2 b3 hp
  obtain ⟨rfl, rfl⟩ := two hp
  rfl

theorem rlR (r : Reg8) : Statement (.rlR r) := by
  intro _ b0 b1 b2 b3 hp
  obtain ⟨rfl, rfl⟩ := two hp
  cases r <;> rfl

theorem rlIndHl : Statement .rlIndHl := by
  intro _ b0 b1 b2 b3 hp
  obtain ⟨rfl, rfl⟩ := two hp
  rfl

theorem rrR (r : Reg8) : Statement (.rrR r) := by
  intro _ b0 b1 b2 b3 hp
  obtain ⟨rfl, rfl⟩ := two hp
  cases r <;> rfl

theorem rrIndHl : Statement .rrIndHl := by
  intro _ b0 b1 b2 b3 hp
  obtain ⟨rfl, rfl⟩ := two hp
  rfl

theorem slaR (r : Reg8) : Statement (.slaR r) := by
  intro _ b0 b1 b2 b3 hp
  obtain ⟨rfl, rfl⟩ := two hp
  cases r <;> rfl

theorem slaIndHl : Statement .slaIndHl := by
  intro _ b0 b1 b2 b3 hp
  obtain ⟨rfl, rfl⟩ := two hp
  rfl

theorem sraR (r : Reg8) : Statement (.sraR r) := by
  intro _ b0 b1 b2 b3 hp
  obtain ⟨rfl, rfl⟩ := two hp
  cases r <;> rfl

theorem sraIndHl : Statement .sraIndHl := by
  intro _ b0 b1 b2 b3 hp
  obtain ⟨rfl, rfl⟩ := two hp
  rfl

theorem sllR (r : Reg8) : Statement (.sllR r) := by
  intro _ b0 b1 b2 b3 hp
  obtain ⟨rfl, rfl⟩ := two hp
  cases r <;> rfl

theorem sllIndHl : Statement .sllIndHl := by
  intro _ b0 b1 b2 b3 hp
  obtain ⟨rfl, rfl⟩ := two hp
  rfl

theorem srlR (r : Reg8) : Statement (.srlR r) := by
  intro _ b0 b1 b2 b3 hp
  obtain ⟨rfl, rfl⟩ := two hp
  cases r <;> rfl

theorem srlIndHl : Statement .srlIndHl := by
  intro _ b0 b1 b2 b3 hp
  obtain ⟨rfl, rfl⟩ := two hp
  rfl

theorem bitBR (b : BitVec 3) (r : Reg8) : Statement (.bitBR b r) := by
  intro _ b0 b1 b2 b3 hp
  obtain ⟨rfl, rfl⟩ := two hp
  rcases eight b with rfl | rfl | rfl | rfl | rfl | rfl | rfl | rfl <;> cases r <;> rfl

theorem bitBIndHl (b : BitVec 3) : Statement (.bitBIndHl b) := by
  intro _ b0 b1 b2 b3 hp
  obtain ⟨rfl, rfl⟩ := two hp
  rcases eight b with rfl | rfl | rfl | rfl | rfl | rfl | rfl | rfl <;> rfl

theorem resBR (b : BitVec 3) (r : Reg8) : Statement (.resBR b r) := by
  intro _ b0 b1 b2 b3 hp
  obtain ⟨rfl, rfl⟩ := two hp
  rcases eight b with rfl | rfl | rfl | rfl | rfl | rfl | rfl | rfl <;> cases r <;> rfl

theorem resBIndHl (b : BitVec 3) : Statement (.resBIndHl b) := by
  intro _ b0 b1 b2 b3 hp
  obtain ⟨rfl, rfl⟩ := two hp
  rcases eight b with rfl | rfl | rfl | rfl | rfl | rfl | rfl | rfl <;> rfl

theorem setBR (b : BitVec 3) (r : Reg8) : Statement (.setBR b r) := by
  intro _ b0 b1 b2 b3 hp
  obtain ⟨rfl, rfl⟩ := two hp
  rcases eight b with rfl | rfl | rfl | rfl | rfl | rfl | rfl | rfl <;> cases r <;> rfl

theorem setBIndHl (b : BitVec 3) : Statement (.setBIndHl b) := by
  intro _ b0 b1 b2 b3 hp
  obtain ⟨rfl, rfl⟩ := two hp
  rcases eight b with rfl | rfl | rfl | rfl | rfl | rfl | rfl | rfl <;> rfl

theorem addIxPp (p : IdxPair) : Statement (.addIxPp p) := by
  intro _ b0 b1 b2 b3 hp
  obtain ⟨rfl, rfl⟩ := two hp
  cases p <;> rfl

theorem ldIxNn (nn : Word) : Statement (.ldIxNn nn) := by
  intro _ b0 b1 b2 b3 hp
  obtain ⟨rfl, rfl, rfl, rfl⟩ := four hp
  exact congrArg (fun v => Decoded.instr _ (.ldIxNn v)) (wordOf_hiByte_loByte nn)

theorem ldIndNnIx (nn : Word) : Statement (.ldIndNnIx nn) := by
  intro _ b0 b1 b2 b3 hp
  obtain ⟨rfl, rfl, rfl, rfl⟩ := four hp
  exact congrArg (fun v => Decoded.instr _ (.ldIndNnIx v)) (wordOf_hiByte_loByte nn)

theorem incIx : Statement .incIx := by
  intro _ b0 b1 b2 b3 hp
  obtain ⟨rfl, rfl⟩ := two hp
  rfl

theorem ldIxIndNn (nn : Word) : Statement (.ldIxIndNn nn) := by
  intro _ b0 b1 b2 b3 hp
  obtain ⟨rfl, rfl, rfl, rfl⟩ := four hp
  exact congrArg (fun v => Decoded.instr _ (.ldIxIndNn v)) (wordOf_hiByte_loByte nn)

theorem decIx : Statement .decIx := by
  intro _ b0 b1 b2 b3 hp
  obtain ⟨rfl, rfl⟩ := two hp
  rfl

theorem incIxHalf (h : Half) : Statement (.incIxHalf h) := by
  intro _ b0 b1 b2 b3 hp
  obtain ⟨rfl, rfl⟩ := two hp
  cases h <;> rfl

theorem decIxHalf (h : Half) : Statement (.decIxHalf h) := by
  intro _ b0 b1 b2 b3 hp
  obtain ⟨rfl, rfl⟩ := two hp
  cases h <;> rfl

theorem ldIxHalfN (h : Half) (n : Byte) : Statement (.ldIxHalfN h n) := by
  intro _ b0 b1 b2 b3 hp
  obtain ⟨rfl, rfl, rfl⟩ := three hp
  cases h <;> rfl

theorem incIndIx (d : Byte) : Statement (.incIndIx d) := by
  intro _ b0 b1 b2 b3 hp
  obtain ⟨rfl, rfl, rfl⟩ := three hp
  rfl

theorem decIndIx (d : Byte) : Statement (.decIndIx d) := by
  intro _ b0 b1 b2 b3 hp
  obtain ⟨rfl, rfl, rfl⟩ := three hp
  rfl

theorem ldIndIxN (d : Byte) (n : Byte) : Statement (.ldIndIxN d n) := by
  intro _ b0 b1 b2 b3 hp
  obtain ⟨rfl, rfl, rfl, rfl⟩ := four hp
  rfl

theorem ldRIndIx (r : Reg8) (d : Byte) : Statement (.ldRIndIx r d) := by
  intro _ b0 b1 b2 b3 hp
  obtain ⟨rfl, rfl, rfl⟩ := three hp
  cases r <;> rfl

theorem ldIndIxR (d : Byte) (r : Reg8) : Statement (.ldIndIxR d r) := by
  intro _ b0 b1 b2 b3 hp
  obtain ⟨rfl, rfl, rfl⟩ := three hp
  cases r <;> rfl

theorem ldIxHalfS (h : Half) (s : IdxSrc) : Statement (.ldIxHalfS h s) := by
  intro _ b0 b1 b2 b3 hp
  obtain ⟨rfl, rfl⟩ := two hp
  cases h <;> cases s <;> rfl

theorem ldRIxHalf (r : PlainReg) (h : Half) : Statement (.ldRIxHalf r h) := by
  intro _ b0 b1 b2 b3 hp
  obtain ⟨rfl, rfl⟩ := two hp
  cases r <;> cases h <;> rfl

theorem addAIndIx (d : Byte) : Statement (.addAIndIx d) := by
  intro _ b0 b1 b2 b3 hp
  obtain ⟨rfl, rfl, rfl⟩ := three hp
  rfl

theorem addAIxHalf (h : Half) : Statement (.addAIxHalf h) := by
  intro _ b0 b1 b2 b3 hp
  obtain ⟨rfl, rfl⟩ := two hp
  cases h <;> rfl

theorem adcAIndIx (d : Byte) : Statement (.adcAIndIx d) := by
  intro _ b0 b1 b2 b3 hp
  obtain ⟨rfl, rfl, rfl⟩ := three hp
  rfl

theorem adcAIxHalf (h : Half) : Statement (.adcAIxHalf h) := by
  intro _ b0 b1 b2 b3 hp
  obtain ⟨rfl, rfl⟩ := two hp
  cases h <;> rfl

theorem subIndIx (d : Byte) : Statement (.subIndIx d) := by
  intro _ b0 b1 b2 b3 hp
  obtain ⟨rfl, rfl, rfl⟩ := three hp
  rfl

theorem subIxHalf (h : Half) : Statement (.subIxHalf h) := by
  intro _ b0 b1 b2 b3 hp
  obtain ⟨rfl, rfl⟩ := two hp
  cases h <;> rfl

theorem sbcAIndIx (d : Byte) : Statement (.sbcAIndIx d) := by
  intro _ b0 b1 b2 b3 hp
  obtain ⟨rfl, rfl, rfl⟩ := three hp
  rfl

theorem sbcAIxHalf (h : Half) : Statement (.sbcAIxHalf h) := by
  intro _ b0 b1 b2 b3 hp
  obtain ⟨rfl, rfl⟩ := two hp
  cases h <;> rfl

theorem andIndIx (d : Byte) : Statement (.andIndIx d) := by
  intro _ b0 b1 b2 b3 hp
  obtain ⟨rfl, rfl, rfl⟩ := three hp
  rfl

theorem andIxHalf (h : Half) : Statement (.andIxHalf h) := by
  intro _ b0 b1 b2 b3 hp
  obtain ⟨rfl, rfl⟩ := two hp
  cases h <;> rfl

theorem xorIndIx (d : Byte) : Statement (.xorIndIx d) := by
  intro _ b0 b1 b2 b3 hp
  obtain ⟨rfl, rfl, rfl⟩ := three hp
  rfl

theorem xorIxHalf (h : Half) : Statement (.xorIxHalf h) := by
  intro _ b0 b1 b2 b3 hp
  obtain ⟨rfl, rfl⟩ := two hp
  cases h <;> rfl

theorem orIndIx (d : Byte) : Statement (.orIndIx d) := by
  intro _ b0 b1 b2 b3 hp
  obtain ⟨rfl, rfl, rfl⟩ := three hp
  rfl

theorem orIxHalf (h : Half) : Statement (.orIxHalf h) := by
  intro _ b0 b1 b2 b3 hp
  obtain ⟨rfl, rfl⟩ := two hp
  cases h <;> rfl

theorem cpIndIx (d : Byte) : Statement (.cpIndIx d) := by
  intro _ b0 b1 b2 b3 hp
  obtain ⟨rfl, rfl, rfl⟩ := three hp
  rfl

theorem cpIxHalf (h : Half) : Statement (.cpIxHalf h) := by
  intro _ b0 b1 b2 b3 hp
  obtain ⟨rfl, rfl⟩ := two hp
  cases h <;> rfl

theorem popIx : Statement .popIx := by
  intro _ b0 b1 b2 b3 hp
  obtain ⟨rfl, rfl⟩ := two hp
  rfl

theorem exIndSpIx : Statement .exIndSpIx := by
  intro _ b0 b1 b2 b3 hp
  obtain ⟨rfl, rfl⟩ := two hp
  rfl

theorem pushIx : Statement .pushIx := by
  intro _ b0 b1 b2 b3 hp
  obtain ⟨rfl, rfl⟩ := two hp
  rfl

theorem jpIx : Statement .jpIx := by
  intro _ b0 b1 b2 b3 hp
  obtain ⟨rfl, rfl⟩ := two hp
  rfl

theorem ldSpIx : Statement .ldSpIx := by
  intro _ b0 b1 b2 b3 hp
  obtain ⟨rfl, rfl⟩ := two hp
  rfl

theorem rlcIndIx (d : Byte) : Statement (.rlcIndIx d) := by
  intro _ b0 b1 b2 b3 hp
  obtain ⟨rfl, rfl, rfl, rfl⟩ := four hp
  rfl

theorem rlcIndIxR (d : Byte) (r : Reg8) : Statement (.rlcIndIxR d r) := by
  intro _ b0 b1 b2 b3 hp
  obtain ⟨rfl, rfl, rfl, rfl⟩ := four hp
  cases r <;> rfl

theorem rrcIndIx (d : Byte) : Statement (.rrcIndIx d) := by
  intro _ b0 b1 b2 b3 hp
  obtain ⟨rfl, rfl, rfl, rfl⟩ := four hp
  rfl

theorem rrcIndIxR (d : Byte) (r : Reg8) : Statement (.rrcIndIxR d r) := by
  intro _ b0 b1 b2 b3 hp
  obtain ⟨rfl, rfl, rfl, rfl⟩ := four hp
  cases r <;> rfl

theorem rlIndIx (d : Byte) : Statement (.rlIndIx d) := by
  intro _ b0 b1 b2 b3 hp
  obtain ⟨rfl, rfl, rfl, rfl⟩ := four hp
  rfl

theorem rlIndIxR (d : Byte) (r : Reg8) : Statement (.rlIndIxR d r) := by
  intro _ b0 b1 b2 b3 hp
  obtain ⟨rfl, rfl, rfl, rfl⟩ := four hp
  cases r <;> rfl

theorem rrIndIx (d : Byte) : Statement (.rrIndIx d) := by
  intro _ b0 b1 b2 b3 hp
  obtain ⟨rfl, rfl, rfl, rfl⟩ := four hp
  rfl

theorem rrIndIxR (d : Byte) (r : Reg8) : Statement (.rrIndIxR d r) := by
  intro _ b0 b1 b2 b3 hp
  obtain ⟨rfl, rfl, rfl, rfl⟩ := four hp
  cases r <;> rfl

theorem slaIndIx (d : Byte) : Statement (.slaIndIx d) := by
  intro _ b0 b1 b2 b3 hp
  obtain ⟨rfl, rfl, rfl, rfl⟩ := four hp
  rfl

theorem slaIndIxR (d : Byte) (r : Reg8) : Statement (.slaIndIxR d r) := by
  intro _ b0 b1 b2 b3 hp
  obtain ⟨rfl, rfl, rfl, rfl⟩ := four hp
  cases r <;> rfl

theorem sraIndIx (d : Byte) : Statement (.sraIndIx d) := by
  intro _ b0 b1 b2 b3 hp
  obtain ⟨rfl, rfl, rfl, rfl⟩ := four hp
  rfl

theorem sraIndIxR (d : Byte) (r : Reg8) : Statement (.sraIndIxR d r) := by
  intro _ b0 b1 b2 b3 hp
  obtain ⟨rfl, rfl, rfl, rfl⟩ := four hp
  cases r <;> rfl

theorem sllIndIx (d : Byte) : Statement (.sllIndIx d) := by
  intro _ b0 b1 b2 b3 hp
  obtain ⟨rfl, rfl, rfl, rfl⟩ := four hp
  rfl

theorem sllIndIxR (d : Byte) (r : Reg8) : Statement (.sllIndIxR d r) := by
  intro _ b0 b1 b2 b3 hp
  obtain ⟨rfl, rfl, rfl, rfl⟩ := four hp
  cases r <;> rfl

theorem srlIndIx (d : Byte) : Statement (.srlIndIx d) := by
  intro _ b0 b1 b2 b3 hp
  obtain ⟨rfl, rfl, rfl, rfl⟩ := four hp
  rfl

theorem srlIndIxR (d : Byte) (r : Reg8) : Statement (.srlIndIxR d r) := by
  intro _ b0 b1 b2 b3 hp
  obtain ⟨rfl, rfl, rfl, rfl⟩ := four hp
  cases r <;> rfl

theorem bitBIndIx (b : BitVec 3) (d : Byte) : Statement (.bitBIndIx b d) := by
  intro _ b0 b1 b2 b3 hp
  obtain ⟨rfl, rfl, rfl, rfl⟩ := four hp
  rcases eight b with rfl | rfl | rfl | rfl | rfl | rfl | rfl | rfl <;> rfl

theorem bitBIndIxAlias (b : BitVec 3) (d : Byte) (y : Reg8) : Statement (.bitBIndIxAlias b d y) := by
  intro _ b0 b1 b2 b3 hp
  obtain ⟨rfl, rfl, rfl, rfl⟩ := four hp
  rcases eight b with rfl | rfl | rfl | rfl | rfl | rfl | rfl | rfl <;> cases y <;> rfl

theorem resBIndIx (b : BitVec 3) (d : Byte) : Statement (.resBIndIx b d) := by
  intro _ b0 b1 b2 b3 hp
  obtain ⟨rfl, rfl, rfl, rfl⟩ := four hp
  rcases eight b with rfl | rfl | rfl | rfl | rfl | rfl | rfl | rfl <;> rfl

theorem resBIndIxR (b : BitVec 3) (d : Byte) (r : Reg8) : Statement (.resBIndIxR b d r) := by
  intro _ b0 b1 b2 b3 hp
  obtain ⟨rfl, rfl, rfl, rfl⟩ := four hp
  rcases eight b with rfl | rfl | rfl | rfl | rfl | rfl | rfl | rfl <;> cases r <;> rfl

theorem setBIndIx (b : BitVec 3) (d : Byte) : Statement (.setBIndIx b d) := by
  intro _ b0 b1 b2 b3 hp
  obtain ⟨rfl, rfl, rfl, rfl⟩ := four hp
  rcases eight b with rfl | rfl | rfl | rfl | rfl | rfl | rfl | rfl <;> rfl

theorem setBIndIxR (b : BitVec 3) (d : Byte) (r : Reg8) : Statement (.setBIndIxR b d r) := by
  intro _ b0 b1 b2 b3 hp
  obtain ⟨rfl, rfl, rfl, rfl⟩ := four hp
  rcases eight b with rfl | rfl | rfl | rfl | rfl | rfl | rfl | rfl <;> cases r <;> rfl

theorem addIyPp (p : IdxPair) : Statement (.addIyPp p) := by
  intro _ b0 b1 b2 b3 hp
  obtain ⟨rfl, rfl⟩ := two hp
  cases p <;> rfl

theorem ldIyNn (nn : Word) : Statement (.ldIyNn nn) := by
  intro _ b0 b1 b2 b3 hp
  obtain ⟨rfl, rfl, rfl, rfl⟩ := four hp
  exact congrArg (fun v => Decoded.instr _ (.ldIyNn v)) (wordOf_hiByte_loByte nn)

theorem ldIndNnIy (nn : Word) : Statement (.ldIndNnIy nn) := by
  intro _ b0 b1 b2 b3 hp
  obtain ⟨rfl, rfl, rfl, rfl⟩ := four hp
  exact congrArg (fun v => Decoded.instr _ (.ldIndNnIy v)) (wordOf_hiByte_loByte nn)

theorem incIy : Statement .incIy := by
  intro _ b0 b1 b2 b3 hp
  obtain ⟨rfl, rfl⟩ := two hp
  rfl

theorem ldIyIndNn (nn : Word) : Statement (.ldIyIndNn nn) := by
  intro _ b0 b1 b2 b3 hp
  obtain ⟨rfl, rfl, rfl, rfl⟩ := four hp
  exact congrArg (fun v => Decoded.instr _ (.ldIyIndNn v)) (wordOf_hiByte_loByte nn)

theorem decIy : Statement .decIy := by
  intro _ b0 b1 b2 b3 hp
  obtain ⟨rfl, rfl⟩ := two hp
  rfl

theorem incIyHalf (h : Half) : Statement (.incIyHalf h) := by
  intro _ b0 b1 b2 b3 hp
  obtain ⟨rfl, rfl⟩ := two hp
  cases h <;> rfl

theorem decIyHalf (h : Half) : Statement (.decIyHalf h) := by
  intro _ b0 b1 b2 b3 hp
  obtain ⟨rfl, rfl⟩ := two hp
  cases h <;> rfl

theorem ldIyHalfN (h : Half) (n : Byte) : Statement (.ldIyHalfN h n) := by
  intro _ b0 b1 b2 b3 hp
  obtain ⟨rfl, rfl, rfl⟩ := three hp
  cases h <;> rfl

theorem incIndIy (d : Byte) : Statement (.incIndIy d) := by
  intro _ b0 b1 b2 b3 hp
  obtain ⟨rfl, rfl, rfl⟩ := three hp
  rfl

theorem decIndIy (d : Byte) : Statement (.decIndIy d) := by
  intro _ b0 b1 b2 b3 hp
  obtain ⟨rfl, rfl, rfl⟩ := three hp
  rfl

theorem ldIndIyN (d : Byte) (n : Byte) : Statement (.ldIndIyN d n) := by
  intro _ b0 b1 b2 b3 hp
  obtain ⟨rfl, rfl, rfl, rfl⟩ := four hp
  rfl

theorem ldRIndIy (r : Reg8) (d : Byte) : Statement (.ldRIndIy r d) := by
  intro _ b0 b1 b2 b3 hp
  obtain ⟨rfl, rfl, rfl⟩ := three hp
  cases r <;> rfl

theorem ldIndIyR (d : Byte) (r : Reg8) : Statement (.ldIndIyR d r) := by
  intro _ b0 b1 b2 b3 hp
  obtain ⟨rfl, rfl, rfl⟩ := three hp
  cases r <;> rfl

theorem ldIyHalfS (h : Half) (s : IdxSrc) : Statement (.ldIyHalfS h s) := by
  intro _ b0 b1 b2 b3 hp
  obtain ⟨rfl, rfl⟩ := two hp
  cases h <;> cases s <;> rfl

theorem ldRIyHalf (r : PlainReg) (h : Half) : Statement (.ldRIyHalf r h) := by
  intro _ b0 b1 b2 b3 hp
  obtain ⟨rfl, rfl⟩ := two hp
  cases r <;> cases h <;> rfl

theorem addAIndIy (d : Byte) : Statement (.addAIndIy d) := by
  intro _ b0 b1 b2 b3 hp
  obtain ⟨rfl, rfl, rfl⟩ := three hp
  rfl

theorem addAIyHalf (h : Half) : Statement (.addAIyHalf h) := by
  intro _ b0 b1 b2 b3 hp
  obtain ⟨rfl, rfl⟩ := two hp
  cases h <;> rfl

theorem adcAIndIy (d : Byte) : Statement (.adcAIndIy d) := by
  intro _ b0 b1 b2 b3 hp
  obtain ⟨rfl, rfl, rfl⟩ := three hp
  rfl

theorem adcAIyHalf (h : Half) : Statement (.adcAIyHalf h) := by
  intro _ b0 b1 b2 b3 hp
  obtain ⟨rfl, rfl⟩ := two hp
  cases h <;> rfl

theorem subIndIy (d : Byte) : Statement (.subIndIy d) := by
  intro _ b0 b1 b2 b3 hp
  obtain ⟨rfl, rfl, rfl⟩ := three hp
  rfl

theorem subIyHalf (h : Half) : Statement (.subIyHalf h) := by
  intro _ b0 b1 b2 b3 hp
  obtain ⟨rfl, rfl⟩ := two hp
  cases h <;> rfl

theorem sbcAIndIy (d : Byte) : Statement (.sbcAIndIy d) := by
  intro _ b0 b1 b2 b3 hp
  obtain ⟨rfl, rfl, rfl⟩ := three hp
  rfl

theorem sbcAIyHalf (h : Half) : Statement (.sbcAIyHalf h) := by
  intro _ b0 b1 b2 b3 hp
  obtain ⟨rfl, rfl⟩ := two hp
  cases h <;> rfl

theorem andIndIy (d : Byte) : Statement (.andIndIy d) := by
  intro _ b0 b1 b2 b3 hp
  obtain ⟨rfl, rfl, rfl⟩ := three hp
  rfl

theorem andIyHalf (h : Half) : Statement (.andIyHalf h) := by
  intro _ b0 b1 b2 b3 hp
  obtain ⟨rfl, rfl⟩ := two hp
  cases h <;> rfl

theorem xorIndIy (d : Byte) : Statement (.xorIndIy d) := by
  intro _ b0 b1 b2 b3 hp
  obtain ⟨rfl, rfl, rfl⟩ := three hp
  rfl

theorem xorIyHalf (h : Half) : Statement (.xorIyHalf h) := by
  intro _ b0 b1 b2 b3 hp
  obtain ⟨rfl, rfl⟩ := two hp
  cases h <;> rfl

theorem orIndIy (d : Byte) : Statement (.orIndIy d) := by
  intro _ b0 b1 b2 b3 hp
  obtain ⟨rfl, rfl, rfl⟩ := three hp
  rfl

theorem orIyHalf (h : Half) : Statement (.orIyHalf h) := by
  intro _ b0 b1 b2 b3 hp
  obtain ⟨rfl, rfl⟩ := two hp
  cases h <;> rfl

theorem cpIndIy (d : Byte) : Statement (.cpIndIy d) := by
  intro _ b0 b1 b2 b3 hp
  obtain ⟨rfl, rfl, rfl⟩ := three hp
  rfl

theorem cpIyHalf (h : Half) : Statement (.cpIyHalf h) := by
  intro _ b0 b1 b2 b3 hp
  obtain ⟨rfl, rfl⟩ := two hp
  cases h <;> rfl

theorem popIy : Statement .popIy := by
  intro _ b0 b1 b2 b3 hp
  obtain ⟨rfl, rfl⟩ := two hp
  rfl

theorem exIndSpIy : Statement .exIndSpIy := by
  intro _ b0 b1 b2 b3 hp
  obtain ⟨rfl, rfl⟩ := two hp
  rfl

theorem pushIy : Statement .pushIy := by
  intro _ b0 b1 b2 b3 hp
  obtain ⟨rfl, rfl⟩ := two hp
  rfl

theorem jpIy : Statement .jpIy := by
  intro _ b0 b1 b2 b3 hp
  obtain ⟨rfl, rfl⟩ := two hp
  rfl

theorem ldSpIy : Statement .ldSpIy := by
  intro _ b0 b1 b2 b3 hp
  obtain ⟨rfl, rfl⟩ := two hp
  rfl

theorem rlcIndIy (d : Byte) : Statement (.rlcIndIy d) := by
  intro _ b0 b1 b2 b3 hp
  obtain ⟨rfl, rfl, rfl, rfl⟩ := four hp
  rfl

theorem rlcIndIyR (d : Byte) (r : Reg8) : Statement (.rlcIndIyR d r) := by
  intro _ b0 b1 b2 b3 hp
  obtain ⟨rfl, rfl, rfl, rfl⟩ := four hp
  cases r <;> rfl

theorem rrcIndIy (d : Byte) : Statement (.rrcIndIy d) := by
  intro _ b0 b1 b2 b3 hp
  obtain ⟨rfl, rfl, rfl, rfl⟩ := four hp
  rfl

theorem rrcIndIyR (d : Byte) (r : Reg8) : Statement (.rrcIndIyR d r) := by
  intro _ b0 b1 b2 b3 hp
  obtain ⟨rfl, rfl, rfl, rfl⟩ := four hp
  cases r <;> rfl

theorem rlIndIy (d : Byte) : Statement (.rlIndIy d) := by
  intro _ b0 b1 b2 b3 hp
  obtain ⟨rfl, rfl, rfl, rfl⟩ := four hp
  rfl

theorem rlIndIyR (d : Byte) (r : Reg8) : Statement (.rlIndIyR d r) := by
  intro _ b0 b1 b2 b3 hp
  obtain ⟨rfl, rfl, rfl, rfl⟩ := four hp
  cases r <;> rfl

theorem rrIndIy (d : Byte) : Statement (.rrIndIy d) := by
  intro _ b0 b1 b2 b3 hp
  obtain ⟨rfl, rfl, rfl, rfl⟩ := four hp
  rfl

theorem rrIndIyR (d : Byte) (r : Reg8) : Statement (.rrIndIyR d r) := by
  intro _ b0 b1 b2 b3 hp
  obtain ⟨rfl, rfl, rfl, rfl⟩ := four hp
  cases r <;> rfl

theorem slaIndIy (d : Byte) : Statement (.slaIndIy d) := by
  intro _ b0 b1 b2 b3 hp
  obtain ⟨rfl, rfl, rfl, rfl⟩ := four hp
  rfl

theorem slaIndIyR (d : Byte) (r : Reg8) : Statement (.slaIndIyR d r) := by
  intro _ b0 b1 b2 b3 hp
  obtain ⟨rfl, rfl, rfl, rfl⟩ := four hp
  cases r <;> rfl

theorem sraIndIy (d : Byte) : Statement (.sraIndIy d) := by
  intro _ b0 b1 b2 b3 hp
  obtain ⟨rfl, rfl, rfl, rfl⟩ := four hp
  rfl

theorem sraIndIyR (d : Byte) (r : Reg8) : Statement (.sraIndIyR d r) := by
  intro _ b0 b1 b2 b3 hp
  obtain ⟨rfl, rfl, rfl, rfl⟩ := four hp
  cases r <;> rfl

theorem sllIndIy (d : Byte) : Statement (.sllIndIy d) := by
  intro _ b0 b1 b2 b3 hp
  obtain ⟨rfl, rfl, rfl, rfl⟩ := four hp
  rfl

theorem sllIndIyR (d : Byte) (r : Reg8) : Statement (.sllIndIyR d r) := by
  intro _ b0 b1 b2 b3 hp
  obtain ⟨rfl, rfl, rfl, rfl⟩ := four hp
  cases r <;> rfl

theorem srlIndIy (d : Byte) : Statement (.srlIndIy d) := by
  intro _ b0 b1 b2 b3 hp
  obtain ⟨rfl, rfl, rfl, rfl⟩ := four hp
  rfl

theorem srlIndIyR (d : Byte) (r : Reg8) : Statement (.srlIndIyR d r) := by
  intro _ b0 b1 b2 b3 hp
  obtain ⟨rfl, rfl, rfl, rfl⟩ := four hp
  cases r <;> rfl

theorem bitBIndIy (b : BitVec 3) (d : Byte) : Statement (.bitBIndIy b d) := by
  intro _ b0 b1 b2 b3 hp
  obtain ⟨rfl, rfl, rfl, rfl⟩ := four hp
  rcases eight b with rfl | rfl | rfl | rfl | rfl | rfl | rfl | rfl <;> rfl

theorem bitBIndIyAlias (b : BitVec 3) (d : Byte) (y : Reg8) : Statement (.bitBIndIyAlias b d y) := by
  intro _ b0 b1 b2 b3 hp
  obtain ⟨rfl, rfl, rfl, rfl⟩ := four hp
  rcases eight b with rfl | rfl | rfl | rfl | rfl | rfl | rfl | rfl <;> cases y <;> rfl

theorem resBIndIy (b : BitVec 3) (d : Byte) : Statement (.resBIndIy b d) := by
  intro _ b0 b1 b2 b3 hp
  obtain ⟨rfl, rfl, rfl, rfl⟩ := four hp
  rcases eight b with rfl | rfl | rfl | rfl | rfl | rfl | rfl | rfl <;> rfl

theorem resBIndIyR (b : BitVec 3) (d : Byte) (r : Reg8) : Statement (.resBIndIyR b d r) := by
  intro _ b0 b1 b2 b3 hp
  obtain ⟨rfl, rfl, rfl, rfl⟩ := four hp
  rcases eight b with rfl | rfl | rfl | rfl | rfl | rfl | rfl | rfl <;> cases r <;> rfl

theorem setBIndIy (b : BitVec 3) (d : Byte) : Statement (.setBIndIy b d) := by
  intro _ b0 b1 b2 b3 hp
  obtain ⟨rfl, rfl, rfl, rfl⟩ := four hp
  rcases eight b with rfl | rfl | rfl | rfl | rfl | rfl | rfl | rfl <;> rfl

theorem setBIndIyR (b : BitVec 3) (d : Byte) (r : Reg8) : Statement (.setBIndIyR b d r) := by
  intro _ b0 b1 b2 b3 hp
  obtain ⟨rfl, rfl, rfl, rfl⟩ := four hp
  rcases eight b with rfl | rfl | rfl | rfl | rfl | rfl | rfl | rfl <;> cases r <;> rfl

theorem inRPortC (r : Reg8) : Statement (.inRPortC r) := by
  intro _ b0 b1 b2 b3 hp
  obtain ⟨rfl, rfl⟩ := two hp
  cases r <;> rfl

theorem inPortC : Statement .inPortC := by
  intro _ b0 b1 b2 b3 hp
  obtain ⟨rfl, rfl⟩ := two hp
  rfl

theorem outPortCR (r : Reg8) : Statement (.outPortCR r) := by
  intro _ b0 b1 b2 b3 hp
  obtain ⟨rfl, rfl⟩ := two hp
  cases r <;> rfl

theorem outPortCZero : Statement .outPortCZero := by
  intro _ b0 b1 b2 b3 hp
  obtain ⟨rfl, rfl⟩ := two hp
  rfl

theorem sbcHlSs (p : Pair) : Statement (.sbcHlSs p) := by
  intro _ b0 b1 b2 b3 hp
  obtain ⟨rfl, rfl⟩ := two hp
  cases p <;> rfl

theorem adcHlSs (p : Pair) : Statement (.adcHlSs p) := by
  intro _ b0 b1 b2 b3 hp
  obtain ⟨rfl, rfl⟩ := two hp
  cases p <;> rfl

theorem ldIndNnDd (p : Pair) (nn : Word) : Statement (.ldIndNnDd p nn) := by
  intro _ b0 b1 b2 b3 hp
  obtain ⟨rfl, rfl, rfl, rfl⟩ := four hp
  cases p <;> exact congrArg (fun v => Decoded.instr _ (.ldIndNnDd _ v)) (wordOf_hiByte_loByte nn)

theorem ldDdIndNn (p : Pair) (nn : Word) : Statement (.ldDdIndNn p nn) := by
  intro _ b0 b1 b2 b3 hp
  obtain ⟨rfl, rfl, rfl, rfl⟩ := four hp
  cases p <;> exact congrArg (fun v => Decoded.instr _ (.ldDdIndNn _ v)) (wordOf_hiByte_loByte nn)

theorem neg : Statement .neg := by
  intro _ b0 b1 b2 b3 hp
  obtain ⟨rfl, rfl⟩ := two hp
  rfl

theorem negMirror (y : BitVec 3) : Statement (.negMirror y) := by
  intro w b0 b1 b2 b3 hp
  obtain ⟨rfl, rfl⟩ := two hp
  rcases eight y with rfl | rfl | rfl | rfl | rfl | rfl | rfl | rfl <;> first | rfl | exact absurd w (by decide)

theorem retn : Statement .retn := by
  intro _ b0 b1 b2 b3 hp
  obtain ⟨rfl, rfl⟩ := two hp
  rfl

theorem reti : Statement .reti := by
  intro _ b0 b1 b2 b3 hp
  obtain ⟨rfl, rfl⟩ := two hp
  rfl

theorem retnMirror (y : BitVec 3) : Statement (.retnMirror y) := by
  intro w b0 b1 b2 b3 hp
  obtain ⟨rfl, rfl⟩ := two hp
  rcases eight y with rfl | rfl | rfl | rfl | rfl | rfl | rfl | rfl <;> first | rfl | exact absurd w (by decide)

theorem im0 : Statement .im0 := by
  intro _ b0 b1 b2 b3 hp
  obtain ⟨rfl, rfl⟩ := two hp
  rfl

theorem im1 : Statement .im1 := by
  intro _ b0 b1 b2 b3 hp
  obtain ⟨rfl, rfl⟩ := two hp
  rfl

theorem im2 : Statement .im2 := by
  intro _ b0 b1 b2 b3 hp
  obtain ⟨rfl, rfl⟩ := two hp
  rfl

theorem im0Mirror (y : BitVec 3) : Statement (.im0Mirror y) := by
  intro w b0 b1 b2 b3 hp
  obtain ⟨rfl, rfl⟩ := two hp
  rcases eight y with rfl | rfl | rfl | rfl | rfl | rfl | rfl | rfl <;> first | rfl | exact absurd w (by decide)

theorem im1Mirror : Statement .im1Mirror := by
  intro _ b0 b1 b2 b3 hp
  obtain ⟨rfl, rfl⟩ := two hp
  rfl

theorem im2Mirror : Statement .im2Mirror := by
  intro _ b0 b1 b2 b3 hp
  obtain ⟨rfl, rfl⟩ := two hp
  rfl

theorem ldIA : Statement .ldIA := by
  intro _ b0 b1 b2 b3 hp
  obtain ⟨rfl, rfl⟩ := two hp
  rfl

theorem ldRA : Statement .ldRA := by
  intro _ b0 b1 b2 b3 hp
  obtain ⟨rfl, rfl⟩ := two hp
  rfl

theorem ldAI : Statement .ldAI := by
  intro _ b0 b1 b2 b3 hp
  obtain ⟨rfl, rfl⟩ := two hp
  rfl

theorem ldAR : Statement .ldAR := by
  intro _ b0 b1 b2 b3 hp
  obtain ⟨rfl, rfl⟩ := two hp
  rfl

theorem rrd : Statement .rrd := by
  intro _ b0 b1 b2 b3 hp
  obtain ⟨rfl, rfl⟩ := two hp
  rfl

theorem rld : Statement .rld := by
  intro _ b0 b1 b2 b3 hp
  obtain ⟨rfl, rfl⟩ := two hp
  rfl

theorem ldi : Statement .ldi := by
  intro _ b0 b1 b2 b3 hp
  obtain ⟨rfl, rfl⟩ := two hp
  rfl

theorem cpi : Statement .cpi := by
  intro _ b0 b1 b2 b3 hp
  obtain ⟨rfl, rfl⟩ := two hp
  rfl

theorem ini : Statement .ini := by
  intro _ b0 b1 b2 b3 hp
  obtain ⟨rfl, rfl⟩ := two hp
  rfl

theorem outi : Statement .outi := by
  intro _ b0 b1 b2 b3 hp
  obtain ⟨rfl, rfl⟩ := two hp
  rfl

theorem ldd : Statement .ldd := by
  intro _ b0 b1 b2 b3 hp
  obtain ⟨rfl, rfl⟩ := two hp
  rfl

theorem cpd : Statement .cpd := by
  intro _ b0 b1 b2 b3 hp
  obtain ⟨rfl, rfl⟩ := two hp
  rfl

theorem ind : Statement .ind := by
  intro _ b0 b1 b2 b3 hp
  obtain ⟨rfl, rfl⟩ := two hp
  rfl

theorem outd : Statement .outd := by
  intro _ b0 b1 b2 b3 hp
  obtain ⟨rfl, rfl⟩ := two hp
  rfl

theorem ldir : Statement .ldir := by
  intro _ b0 b1 b2 b3 hp
  obtain ⟨rfl, rfl⟩ := two hp
  rfl

theorem cpir : Statement .cpir := by
  intro _ b0 b1 b2 b3 hp
  obtain ⟨rfl, rfl⟩ := two hp
  rfl

theorem inir : Statement .inir := by
  intro _ b0 b1 b2 b3 hp
  obtain ⟨rfl, rfl⟩ := two hp
  rfl

theorem otir : Statement .otir := by
  intro _ b0 b1 b2 b3 hp
  obtain ⟨rfl, rfl⟩ := two hp
  rfl

theorem lddr : Statement .lddr := by
  intro _ b0 b1 b2 b3 hp
  obtain ⟨rfl, rfl⟩ := two hp
  rfl

theorem cpdr : Statement .cpdr := by
  intro _ b0 b1 b2 b3 hp
  obtain ⟨rfl, rfl⟩ := two hp
  rfl

theorem indr : Statement .indr := by
  intro _ b0 b1 b2 b3 hp
  obtain ⟨rfl, rfl⟩ := two hp
  rfl

theorem otdr : Statement .otdr := by
  intro _ b0 b1 b2 b3 hp
  obtain ⟨rfl, rfl⟩ := two hp
  rfl

end Sys2Proof.Laws.DecodeEncode
end

