-- ==== Sys2Proof/Laws/Render.lean ====
section
/-! SUPPORT. Rendering: what the sprite scan of R544 finds (the columns drawn, and that a collision is two of the sprites shown meeting in
an opaque pixel on the screen), and that a line depends on the registers, VRAM and CRAM alone (R542). -/

namespace Sys2Proof.Safety

open Sys2Proof.Machine

/-! ### Sprites -/

/-- A pixel of colour `c` at column `x` is opaque and on the screen. -/
def OnScreen (x : Int) (c : Nat) : Prop := c ≠ 0 ∧ 0 ≤ x ∧ x ≤ 255

/-- One pixel: the columns drawn afterwards. -/
theorem plot_lookup (sc : SpriteScan) (x : Int) (c : Nat) (z : Int) :
    ((sc.plot x c).drawn.lookup z).isSome = true ↔ (sc.drawn.lookup z).isSome = true ∨ (z = x ∧ OnScreen x c) := by
  unfold SpriteScan.plot OnScreen
  split
  · next h => constructor
              · exact .inl
              · rintro (h' | ⟨_, h1, h2, h3⟩)
                · exact h'
                · omega
  · next h =>
    split
    · next h2 =>
      constructor
      · exact .inl
      · rintro (h' | ⟨rfl, _⟩)
        · exact h'
        · exact h2
    · next h2 =>
      simp only [List.lookup_cons]
      by_cases hz : z = x
      · subst hz; simp; omega
      · rw [show (z == x) = false from by simpa using hz]; simp only [hz, false_and, or_false]

/-- One pixel: when it sets the collision flag. -/
theorem plot_collision (sc : SpriteScan) (x : Int) (c : Nat) :
    (sc.plot x c).collision = true ↔ sc.collision = true ∨ ((sc.drawn.lookup x).isSome = true ∧ OnScreen x c) := by
  unfold SpriteScan.plot OnScreen
  split
  · next h => constructor
              · exact .inl
              · rintro (h' | ⟨_, h1, h2, h3⟩)
                · exact h'
                · omega
  · next h =>
    split
    · next h2 => simp [h2]; right; omega
    · next h2 => simp [h2]

/-- A row of pixels at distinct columns. -/
theorem foldl_plot_spec (col : Nat → Int) (c : Nat → Nat) (hc : ∀ a b, col a = col b → a = b) (ks : List Nat) (nd : ks.Nodup)
    (sc : SpriteScan) :
    let r := ks.foldl (fun sc k => sc.plot (col k) (c k)) sc
    (∀ z, (r.drawn.lookup z).isSome = true ↔ (sc.drawn.lookup z).isSome = true ∨ ∃ k ∈ ks, z = col k ∧ OnScreen (col k) (c k)) ∧
    (r.collision = true ↔ sc.collision = true ∨ ∃ k ∈ ks, (sc.drawn.lookup (col k)).isSome = true ∧ OnScreen (col k) (c k)) ∧
    r.count = sc.count ∧ r.overflow = sc.overflow := by
  induction ks generalizing sc with
  | nil => simp
  | cons k ks ih =>
    obtain ⟨n1, n2⟩ := List.nodup_cons.1 nd
    obtain ⟨h1, h2, h3, h4⟩ := ih n2 (sc.plot (col k) (c k))
    have hp : (sc.plot (col k) (c k)).count = sc.count ∧ (sc.plot (col k) (c k)).overflow = sc.overflow := by
      unfold SpriteScan.plot; (repeat' split) <;> exact ⟨rfl, rfl⟩
    refine ⟨fun z => ?_, ?_, h3.trans hp.1, h4.trans hp.2⟩
    · rw [List.foldl_cons, h1, plot_lookup]
      simp only [List.mem_cons, exists_eq_or_imp, or_assoc]
    · rw [List.foldl_cons, h2, plot_collision]
      simp only [List.mem_cons, exists_eq_or_imp, or_assoc]
      have : ∀ j ∈ ks, (((sc.plot (col k) (c k)).drawn.lookup (col j)).isSome = true ↔ (sc.drawn.lookup (col j)).isSome = true) := by
        intro j hj
        rw [plot_lookup]
        constructor
        · rintro (h | ⟨h, _⟩)
          · exact h
          · exact absurd (hc _ _ h ▸ hj) n1
        · exact .inl
      constructor
      · rintro (h | h | ⟨j, hj, h, hv⟩)
        · exact .inl h
        · exact .inr (.inl h)
        · exact .inr (.inr ⟨j, hj, (this j hj).1 h, hv⟩)
      · rintro (h | h | ⟨j, hj, h, hv⟩)
        · exact .inl h
        · exact .inr (.inl h)
        · exact .inr (.inr ⟨j, hj, (this j hj).2 h, hv⟩)

/-- The opaque on-screen columns, as an Int predicate. -/
def OpaqueColumn (v : Vdp) (y i : Nat) (z : Int) : Prop := ∃ x : Nat, x < 256 ∧ z = x ∧ SpriteOpaqueAt v y i x

/-- A pixel is not transparent where one of its four planes has its bit set. -/
theorem planes_ne (v : Vdp) (p bit : Nat) :
    v.planes p bit ≠ 0 ↔ ∃ b, b < 4 ∧ (v.vram.read ((p + b) % 0x4000)).getLsbD bit = true := by
  unfold Vdp.planes Vdp.vramAt
  dsimp only
  constructor
  · intro h
    by_contra hn
    have h4 : ∀ b, b < 4 → (v.vram.read ((p + b) % 0x4000)).getLsbD bit = false := fun b hb => by
      cases e : (v.vram.read ((p + b) % 0x4000)).getLsbD bit with
      | false => rfl
      | true => exact absurd ⟨b, hb, e⟩ hn
    rw [h4 0 (by decide), h4 1 (by decide), h4 2 (by decide), h4 3 (by decide)] at h
    exact h rfl
  · rintro ⟨b, hb, e⟩
    have : b = 0 ∨ b = 1 ∨ b = 2 ∨ b = 3 := by omega
    rcases this with rfl | rfl | rfl | rfl <;> rw [e] <;> simp only [Bool.toNat_true] <;> omega

/-- The pixels of one sprite, in the terms of the claims. -/
theorem plotSprite_eq (v : Vdp) (y i : Nat) (sc : SpriteScan) : v.plotSprite y i (spriteTop v i) sc =
    (List.range 8).foldl (fun sc k => sc.plot (spriteLeft v i + (k : Nat)) (v.planes (spriteRow v y i) (7 - k))) sc := by
  have hL : (if v.regBit 0 3 then ((v.vramAt (v.satBase + 0x80 + 2 * i)).toNat : Int) - 8
      else ((v.vramAt (v.satBase + 0x80 + 2 * i)).toNat : Int)) = spriteLeft v i := by
    show (if v.reg[0].getLsbD 3 then _ else _) = _
    unfold spriteLeft
    split <;> simp [Vdp.vramAt]
  unfold Vdp.plotSprite
  dsimp only
  rw [hL]
  rfl

theorem opaqueColumn_iff (v : Vdp) (y i : Nat) (z : Int) : OpaqueColumn v y i z ↔ ∃ k ∈ List.range 8,
    z = spriteLeft v i + (k : Nat) ∧ OnScreen (spriteLeft v i + (k : Nat)) (v.planes (spriteRow v y i) (7 - k)) := by
  unfold OpaqueColumn SpriteOpaqueAt OnScreen
  constructor
  · rintro ⟨x, hx, rfl, k, hk, hz, hb⟩
    exact ⟨k, by simpa using hk, hz, (planes_ne v _ _).2 hb, by omega, by omega⟩
  · rintro ⟨k, hk, hz, hc, h0, h255⟩
    exact ⟨z.toNat, by omega, by omega, k, by simpa using hk, by omega, (planes_ne v _ _).1 hc⟩

/-- One sprite. -/
theorem plotSprite_spec (v : Vdp) (y i : Nat) (sc : SpriteScan) :
    let r := v.plotSprite y i (spriteTop v i) sc
    (∀ z, (r.drawn.lookup z).isSome = true ↔ (sc.drawn.lookup z).isSome = true ∨ OpaqueColumn v y i z) ∧
    (r.collision = true ↔ sc.collision = true ∨ ∃ z, (sc.drawn.lookup z).isSome = true ∧ OpaqueColumn v y i z) ∧
    r.count = sc.count ∧ r.overflow = sc.overflow := by
  obtain ⟨h1, h2, h3, h4⟩ := foldl_plot_spec (fun k => spriteLeft v i + (k : Nat)) (fun k => v.planes (spriteRow v y i) (7 - k))
    (by intro a b h; omega) (List.range 8) List.nodup_range sc
  rw [plotSprite_eq]
  refine ⟨fun z => by rw [h1, opaqueColumn_iff], h2.trans (or_congr_right ⟨?_, ?_⟩), h3, h4⟩
  · rintro ⟨k, hk, hd, hv⟩
    exact ⟨_, hd, (opaqueColumn_iff ..).2 ⟨k, hk, rfl, hv⟩⟩
  · rintro ⟨z, hd, ho⟩
    obtain ⟨k, hk, rfl, hv⟩ := (opaqueColumn_iff ..).1 ho
    exact ⟨k, hk, hd, hv⟩

/-- One of the sprites of a list, drawn in order over the columns `D`, meets a column drawn before. -/
def MeetsDrawn (v : Vdp) (y : Nat) : List Nat → (Int → Prop) → Prop
  | [], _ => False
  | j :: S, D => (∃ z, D z ∧ OpaqueColumn v y j z) ∨ MeetsDrawn v y S fun z => D z ∨ OpaqueColumn v y j z

theorem meetsDrawn_congr {v y S} {D E : Int → Prop} (h : ∀ z, D z ↔ E z) : MeetsDrawn v y S D ↔ MeetsDrawn v y S E := by
  rw [show D = E from funext fun z => propext (h z)]

/-- The scan: at most eight sprites of those before the sentinel that fall on the line, in order. -/
theorem scanSprites_collision (v : Vdp) (y : Nat) (k i : Nat) (sc : SpriteScan) (hc : sc.count ≤ 8) :
    ((v.scanSprites y k i sc).collision = true ↔ sc.collision = true ∨
      MeetsDrawn v y ((((List.range' i k).takeWhile fun i => decide (spriteY v i ≠ 0xD0)).filter (spriteOnLine v y)).take (8 - sc.count))
        (fun z => (sc.drawn.lookup z).isSome = true)) := by
  induction k generalizing i sc with
  | zero => simp [Vdp.scanSprites, MeetsDrawn]
  | succ k ih =>
    unfold Vdp.scanSprites
    dsimp only
    have e1 : (v.vramAt (v.satBase + i)).toNat = spriteY v i := rfl
    rw [e1]
    simp only [List.range'_succ, List.takeWhile_cons]
    by_cases hs : spriteY v i = 0xD0
    · simp [hs, MeetsDrawn]
    · simp only [hs, if_false, ne_eq, not_false_eq_true, decide_true, if_true, List.filter_cons]
      have e2 : (if 0xE0 ≤ spriteY v i then (spriteY v i : Int) + 1 - 256 else (spriteY v i : Int) + 1) = spriteTop v i := rfl
      have e3 : (if v.regBit 1 1 = true then (16 : Int) else 8) = if tallSprites v = true then 16 else 8 := rfl
      rw [e2, e3]
      by_cases ho : spriteTop v i ≤ (y : Int) ∧ (y : Int) < spriteTop v i + if tallSprites v = true then 16 else 8
      · have ho' : spriteOnLine v y i = true := decide_eq_true ho
        rw [if_pos ho, ho', if_pos rfl]
        by_cases h9 : sc.count + 1 = 9
        · rw [if_pos h9, show 8 - sc.count = 0 by omega]
          simp [MeetsDrawn]
        · rw [if_neg h9]
          obtain ⟨p1, p2, p3, p4⟩ := plotSprite_spec v y i { sc with count := sc.count + 1 }
          rw [ih (i + 1) _ (by rw [p3]; dsimp only; omega), p3, p2]
          dsimp only
          rw [show 8 - sc.count = (8 - (sc.count + 1)) + 1 by omega, List.take_succ_cons, MeetsDrawn, or_assoc, meetsDrawn_congr p1]
      · have ho' : spriteOnLine v y i = false := decide_eq_false ho
        rw [if_neg ho, ho', if_neg (by decide)]
        exact ih (i + 1) sc hc

/-- The order of drawing does not matter. -/
theorem meetsDrawn_iff (v : Vdp) (y : Nat) (S : List Nat) (D : Int → Prop) (nd : S.Nodup) :
    MeetsDrawn v y S D ↔ (∃ j ∈ S, ∃ z, D z ∧ OpaqueColumn v y j z) ∨
      ∃ i ∈ S, ∃ j ∈ S, i ≠ j ∧ ∃ z, OpaqueColumn v y i z ∧ OpaqueColumn v y j z := by
  induction S generalizing D with
  | nil => simp [MeetsDrawn]
  | cons a S ih =>
    obtain ⟨n1, n2⟩ := List.nodup_cons.1 nd
    rw [MeetsDrawn, ih _ n2]
    simp only [List.mem_cons]
    constructor
    · rintro (h | ⟨j, hj, z, h | h, ho⟩ | ⟨i, hi, j, hj, hn, h⟩)
      · exact .inl ⟨a, .inl rfl, h⟩
      · exact .inl ⟨j, .inr hj, z, h, ho⟩
      · exact .inr ⟨a, .inl rfl, j, .inr hj, fun e => n1 (e ▸ hj), z, h, ho⟩
      · exact .inr ⟨i, .inr hi, j, .inr hj, hn, h⟩
    · rintro (⟨j, rfl | hj, z, h, ho⟩ | ⟨i, hi, j, hj, hn, z, h1, h2⟩)
      · exact .inl ⟨z, h, ho⟩
      · exact .inr (.inl ⟨j, hj, z, .inl h, ho⟩)
      · rcases hi with rfl | hi <;> rcases hj with rfl | hj
        · exact absurd rfl hn
        · exact .inr (.inl ⟨j, hj, z, .inr h1, h2⟩)
        · exact .inr (.inl ⟨i, hi, z, .inr h2, h1⟩)
        · exact .inr (.inr ⟨i, hi, j, hj, hn, z, h1, h2⟩)

/-- A line sets the collision flag exactly when two of the sprites it shows meet in an opaque pixel. -/
theorem sprites_collision_iff (v : Vdp) (y : Nat) : (v.sprites y).collision = true ↔ SpritesMeet v y := by
  unfold Vdp.sprites
  rw [scanSprites_collision v y 64 0 _ (by decide)]
  simp only [Bool.false_eq_true, false_or, Nat.sub_zero]
  rw [← List.range_eq_range', meetsDrawn_iff]
  · unfold SpritesMeet spritesOf
    simp only [List.lookup_nil, Option.isSome_none, Bool.false_eq_true, false_and, exists_false, and_false, false_or]
    constructor
    · rintro ⟨i, hi, j, hj, hn, z, ⟨x, hx, rfl, ho⟩, ⟨x', _, e, ho'⟩⟩
      obtain rfl : x = x' := by omega
      exact ⟨i, hi, j, hj, hn, x, hx, ho, ho'⟩
    · rintro ⟨i, hi, j, hj, hn, x, hx, ho, ho'⟩
      exact ⟨i, hi, j, hj, hn, (x : Int), ⟨x, hx, rfl, ho⟩, ⟨x, hx, rfl, ho'⟩⟩
  · exact ((List.nodup_range.sublist (List.takeWhile_sublist _)).sublist List.filter_sublist).sublist (List.take_sublist _ _)

/-! ### What a line depends on -/

/-- What rendering reads of the VDP: its registers, VRAM and CRAM (R542). -/
structure SameView (v w : Vdp) : Prop where
  reg  : v.reg = w.reg
  vram : v.vram = w.vram
  cram : v.cram = w.cram

theorem SameView.regBit {v w : Vdp} (h : SameView v w) : v.regBit = w.regBit := by
  funext k b
  rw [Vdp.regBit, h.reg, Vdp.regBit]

theorem SameView.vramAt {v w : Vdp} (h : SameView v w) : v.vramAt = w.vramAt := by
  funext n
  rw [Vdp.vramAt, h.vram, Vdp.vramAt]

theorem SameView.bases {v w : Vdp} (h : SameView v w) :
    v.satBase = w.satBase ∧ v.spritePatternBase = w.spritePatternBase ∧ v.nameTableBase = w.nameTableBase := by
  simp only [Vdp.satBase, Vdp.spritePatternBase, Vdp.nameTableBase, h.reg, and_self]

theorem SameView.planes {v w : Vdp} (h : SameView v w) : v.planes = w.planes := by
  funext p b
  simp only [Vdp.planes, h.vramAt]

theorem SameView.plotSprite {v w : Vdp} (h : SameView v w) : v.plotSprite = w.plotSprite := by
  funext y i top sc
  unfold Vdp.plotSprite
  rw [h.regBit, h.vramAt, h.bases.1, h.bases.2.1, h.planes]

theorem SameView.sprites {v w : Vdp} (h : SameView v w) : v.sprites = w.sprites := by
  have scan : ∀ y k i sc, v.scanSprites y k i sc = w.scanSprites y k i sc := by
    intro y k
    induction k with
    | zero => exact fun _ _ => rfl
    | succ k ih =>
      intro i sc
      unfold Vdp.scanSprites
      rw [h.regBit, h.vramAt, h.bases.1, h.plotSprite]
      simp only [ih]
  exact funext fun y => scan y ..

theorem SameView.colour {v w : Vdp} (h : SameView v w) : v.colour = w.colour := by
  funext i
  simp only [Vdp.colour, h.cram]

theorem SameView.backdrop {v w : Vdp} (h : SameView v w) : v.backdrop = w.backdrop := by
  simp only [Vdp.backdrop, h.colour, h.reg]

theorem SameView.background {v w : Vdp} (h : SameView v w) : v.background = w.background := by
  funext y x
  unfold Vdp.background
  rw [h.regBit, h.vramAt, h.bases.2.2, h.planes, h.reg]

theorem SameView.mode4Pixel {v w : Vdp} (h : SameView v w) : v.mode4Pixel = w.mode4Pixel := by
  funext y sc x
  unfold Vdp.mode4Pixel
  rw [h.regBit, h.background, h.colour, h.backdrop]

/-- Rendering in two states that agree in what it reads. -/
theorem render_congr {s t : State} (h : SameView s.vdp t.vdp) (hs : s.outputs.screen = t.outputs.screen) (hf : s.freeDraws = t.freeDraws)
    (y : Nat) {x : Byte} (hx : s.vdp.status = t.vdp.status ||| x) :
    (s.render y).outputs.screen = (t.render y).outputs.screen ∧ (s.render y).freeDraws = (t.render y).freeDraws ∧
    (s.render y).vdp.status = (t.render y).vdp.status ||| x := by
  unfold State.render
  dsimp only
  rw [h.regBit]
  split
  · exact ⟨by simp only [hs, h.backdrop], hf, hx⟩
  · split
    · refine ⟨by simp only [hs, h.sprites, h.mode4Pixel], hf, ?_⟩
      simp only [Vdp.spriteStatus, h.sprites, hx]
      ac_rfl
    · exact ⟨by simp only [hs, hf], by simp only [hf], hx⟩

end Sys2Proof.Safety
end

