-- ==== Sys2Proof/Tests/Slice0.lean ====
section
/-! SUPPORT. The model's own tests: ill-formed instructions, one word of every encoding written out bit by bit, one step of one instruction
for each rule of spec/40 to spec/49 (expected values from spec/95_test_vectors.md), the exceptions and devices (the same file), and a
witness for the hypotheses of every statement. -/

namespace Sys2Proof.Tests

open Sys2Proof.Machine Sys2Proof.Safety

/-! ### Well-formed instructions -/

theorem test_wf_negMirror : (Instr.negMirror 0).wf = false ∧ (Instr.negMirror 1).wf = true := by decide
theorem test_wf_retnMirror_retn : (Instr.retnMirror 0).wf = false ∧ (Instr.retnMirror 2).wf = true := by decide
theorem test_wf_retnMirror_reti : (Instr.retnMirror 1).wf = false ∧ (Instr.retnMirror 7).wf = true := by decide
theorem test_wf_im0Mirror : (Instr.im0Mirror 0).wf = false ∧ (Instr.im0Mirror 2).wf = false ∧ (Instr.im0Mirror 6).wf = false := by decide
theorem test_wf_im0Mirror_mirrors :
    (Instr.im0Mirror 1).wf = true ∧ (Instr.im0Mirror 4).wf = true ∧ (Instr.im0Mirror 5).wf = true := by decide

/-! ### Decoding: one word of every row of spec/opcode_table.json, written from its encoding -/

/-- The bytes decode to the instruction, and the encoder gives them back. -/
def decodesTo (w : List Byte × Instr) : Bool := decodeWhole? w.1 == some w.2 && encode w.2 == w.1

def mainWords1 : List (List Byte × Instr) :=
  [([0b00000000], .nop),
   ([0b00001000], .exAfAf),
   ([0b00010000, 0b10011100], .djnzE 0x9C),
   ([0b00011000, 0b10011100], .jrE 0x9C),
   ([0b00100000, 0b10011100], .jrNzE 0x9C),
   ([0b00101000, 0b10011100], .jrZE 0x9C),
   ([0b00110000, 0b10011100], .jrNcE 0x9C),
   ([0b00111000, 0b10011100], .jrCE 0x9C),
   ([0b00110001, 0b00110101, 0b11000001], .ldDdNn .sp 0xC135),
   ([0b00111001], .addHlSs .sp),
   ([0b00000010], .ldIndBcA),
   ([0b00001010], .ldAIndBc),
   ([0b00010010], .ldIndDeA),
   ([0b00011010], .ldAIndDe),
   ([0b00100010, 0b00110101, 0b11000001], .ldIndNnHl 0xC135),
   ([0b00101010, 0b00110101, 0b11000001], .ldHlIndNn 0xC135),
   ([0b00110010, 0b00110101, 0b11000001], .ldIndNnA 0xC135),
   ([0b00111010, 0b00110101, 0b11000001], .ldAIndNn 0xC135),
   ([0b00110011], .incSs .sp),
   ([0b00111011], .decSs .sp),
   ([0b00101100], .incR .l),
   ([0b00110100], .incIndHl),
   ([0b00111101], .decR .a),
   ([0b00110101], .decIndHl)]

def mainWords2 : List (List Byte × Instr) :=
  [([0b00010110, 0b10011100], .ldRN .d 0x9C),
   ([0b00110110, 0b10011100], .ldIndHlN 0x9C),
   ([0b00000111], .rlca),
   ([0b00001111], .rrca),
   ([0b00010111], .rla),
   ([0b00011111], .rra),
   ([0b00100111], .daa),
   ([0b00101111], .cpl),
   ([0b00110111], .scf),
   ([0b00111111], .ccf),
   ([0b01010111], .ldRR .d .a),
   ([0b01101110], .ldRIndHl .l),
   ([0b01110010], .ldIndHlR .d),
   ([0b01110110], .halt),
   ([0b10000101], .addAR .l),
   ([0b10000110], .addAIndHl),
   ([0b11000110, 0b10011100], .addAN 0x9C),
   ([0b10001101], .adcAR .l),
   ([0b10001110], .adcAIndHl),
   ([0b11001110, 0b10011100], .adcAN 0x9C),
   ([0b10010101], .subR .l),
   ([0b10010110], .subIndHl),
   ([0b11010110, 0b10011100], .subN 0x9C),
   ([0b10011101], .sbcAR .l)]

def mainWords3 : List (List Byte × Instr) :=
  [([0b10011110], .sbcAIndHl),
   ([0b11011110, 0b10011100], .sbcAN 0x9C),
   ([0b10100101], .andR .l),
   ([0b10100110], .andIndHl),
   ([0b11100110, 0b10011100], .andN 0x9C),
   ([0b10101101], .xorR .l),
   ([0b10101110], .xorIndHl),
   ([0b11101110, 0b10011100], .xorN 0x9C),
   ([0b10110101], .orR .l),
   ([0b10110110], .orIndHl),
   ([0b11110110, 0b10011100], .orN 0x9C),
   ([0b10111101], .cpR .l),
   ([0b10111110], .cpIndHl),
   ([0b11111110, 0b10011100], .cpN 0x9C),
   ([0b11111000], .retCc .m),
   ([0b11110001], .popQq .af),
   ([0b11001001], .ret),
   ([0b11011001], .exx),
   ([0b11101001], .jpHl),
   ([0b11111001], .ldSpHl),
   ([0b11111010, 0b00110101, 0b11000001], .jpCcNn .m 0xC135),
   ([0b11000011, 0b00110101, 0b11000001], .jpNn 0xC135),
   ([0b11010011, 0b10011100], .outPortNA 0x9C),
   ([0b11011011, 0b10011100], .inAPortN 0x9C)]

def mainWords4 : List (List Byte × Instr) :=
  [([0b11100011], .exIndSpHl),
   ([0b11101011], .exDeHl),
   ([0b11110011], .di),
   ([0b11111011], .ei),
   ([0b11010100, 0b00110101, 0b11000001], .callCcNn .nc 0xC135),
   ([0b11110101], .pushQq .af),
   ([0b11001101, 0b00110101, 0b11000001], .callNn 0xC135),
   ([0b11101111], .rstP 5)]

theorem test_decode_mainWords1 : mainWords1.all decodesTo = true := by decide

theorem test_decode_mainWords2 : mainWords2.all decodesTo = true := by decide

theorem test_decode_mainWords3 : mainWords3.all decodesTo = true := by decide

theorem test_decode_mainWords4 : mainWords4.all decodesTo = true := by decide

def cbWords : List (List Byte × Instr) :=
  [([0b11001011, 0b00000101], .rlcR .l),
   ([0b11001011, 0b00000110], .rlcIndHl),
   ([0b11001011, 0b00001111], .rrcR .a),
   ([0b11001011, 0b00001110], .rrcIndHl),
   ([0b11001011, 0b00010010], .rlR .d),
   ([0b11001011, 0b00010110], .rlIndHl),
   ([0b11001011, 0b00011101], .rrR .l),
   ([0b11001011, 0b00011110], .rrIndHl),
   ([0b11001011, 0b00100111], .slaR .a),
   ([0b11001011, 0b00100110], .slaIndHl),
   ([0b11001011, 0b00101010], .sraR .d),
   ([0b11001011, 0b00101110], .sraIndHl),
   ([0b11001011, 0b00110101], .sllR .l),
   ([0b11001011, 0b00110110], .sllIndHl),
   ([0b11001011, 0b00111111], .srlR .a),
   ([0b11001011, 0b00111110], .srlIndHl),
   ([0b11001011, 0b01101010], .bitBR 5 .d),
   ([0b11001011, 0b01101110], .bitBIndHl 5),
   ([0b11001011, 0b10101101], .resBR 5 .l),
   ([0b11001011, 0b10101110], .resBIndHl 5),
   ([0b11001011, 0b11101111], .setBR 5 .a),
   ([0b11001011, 0b11101110], .setBIndHl 5)]

theorem test_decode_cbWords : cbWords.all decodesTo = true := by decide

def ddWords1 : List (List Byte × Instr) :=
  [([0b11011101, 0b00101001], .addIxPp .xy),
   ([0b11011101, 0b00100001, 0b00110101, 0b11000001], .ldIxNn 0xC135),
   ([0b11011101, 0b00100010, 0b00110101, 0b11000001], .ldIndNnIx 0xC135),
   ([0b11011101, 0b00100011], .incIx),
   ([0b11011101, 0b00101010, 0b00110101, 0b11000001], .ldIxIndNn 0xC135),
   ([0b11011101, 0b00101011], .decIx),
   ([0b11011101, 0b00101100], .incIxHalf .lo),
   ([0b11011101, 0b00101101], .decIxHalf .lo),
   ([0b11011101, 0b00101110, 0b10011100], .ldIxHalfN .lo 0x9C),
   ([0b11011101, 0b00110100, 0b10011100], .incIndIx 0x9C),
   ([0b11011101, 0b00110101, 0b10011100], .decIndIx 0x9C),
   ([0b11011101, 0b00110110, 0b10011100, 0b00110101], .ldIndIxN 0x9C 0x35),
   ([0b11011101, 0b01010110, 0b10011100], .ldRIndIx .d 0x9C),
   ([0b11011101, 0b01110111, 0b10011100], .ldIndIxR 0x9C .a),
   ([0b11011101, 0b01101101], .ldIxHalfS .lo .xl),
   ([0b11011101, 0b01011101], .ldRIxHalf .e .lo),
   ([0b11011101, 0b10000110, 0b10011100], .addAIndIx 0x9C),
   ([0b11011101, 0b10000101], .addAIxHalf .lo),
   ([0b11011101, 0b10001110, 0b10011100], .adcAIndIx 0x9C),
   ([0b11011101, 0b10001101], .adcAIxHalf .lo),
   ([0b11011101, 0b10010110, 0b10011100], .subIndIx 0x9C),
   ([0b11011101, 0b10010101], .subIxHalf .lo),
   ([0b11011101, 0b10011110, 0b10011100], .sbcAIndIx 0x9C),
   ([0b11011101, 0b10011101], .sbcAIxHalf .lo)]

def ddWords2 : List (List Byte × Instr) :=
  [([0b11011101, 0b10100110, 0b10011100], .andIndIx 0x9C),
   ([0b11011101, 0b10100101], .andIxHalf .lo),
   ([0b11011101, 0b10101110, 0b10011100], .xorIndIx 0x9C),
   ([0b11011101, 0b10101101], .xorIxHalf .lo),
   ([0b11011101, 0b10110110, 0b10011100], .orIndIx 0x9C),
   ([0b11011101, 0b10110101], .orIxHalf .lo),
   ([0b11011101, 0b10111110, 0b10011100], .cpIndIx 0x9C),
   ([0b11011101, 0b10111101], .cpIxHalf .lo),
   ([0b11011101, 0b11100001], .popIx),
   ([0b11011101, 0b11100011], .exIndSpIx),
   ([0b11011101, 0b11100101], .pushIx),
   ([0b11011101, 0b11101001], .jpIx),
   ([0b11011101, 0b11111001], .ldSpIx)]

theorem test_decode_ddWords1 : ddWords1.all decodesTo = true := by decide

theorem test_decode_ddWords2 : ddWords2.all decodesTo = true := by decide

def ddcbWords : List (List Byte × Instr) :=
  [([0b11011101, 0b11001011, 0b10011100, 0b00000110], .rlcIndIx 0x9C),
   ([0b11011101, 0b11001011, 0b10011100, 0b00000101], .rlcIndIxR 0x9C .l),
   ([0b11011101, 0b11001011, 0b10011100, 0b00001110], .rrcIndIx 0x9C),
   ([0b11011101, 0b11001011, 0b10011100, 0b00001111], .rrcIndIxR 0x9C .a),
   ([0b11011101, 0b11001011, 0b10011100, 0b00010110], .rlIndIx 0x9C),
   ([0b11011101, 0b11001011, 0b10011100, 0b00010010], .rlIndIxR 0x9C .d),
   ([0b11011101, 0b11001011, 0b10011100, 0b00011110], .rrIndIx 0x9C),
   ([0b11011101, 0b11001011, 0b10011100, 0b00011101], .rrIndIxR 0x9C .l),
   ([0b11011101, 0b11001011, 0b10011100, 0b00100110], .slaIndIx 0x9C),
   ([0b11011101, 0b11001011, 0b10011100, 0b00100111], .slaIndIxR 0x9C .a),
   ([0b11011101, 0b11001011, 0b10011100, 0b00101110], .sraIndIx 0x9C),
   ([0b11011101, 0b11001011, 0b10011100, 0b00101010], .sraIndIxR 0x9C .d),
   ([0b11011101, 0b11001011, 0b10011100, 0b00110110], .sllIndIx 0x9C),
   ([0b11011101, 0b11001011, 0b10011100, 0b00110101], .sllIndIxR 0x9C .l),
   ([0b11011101, 0b11001011, 0b10011100, 0b00111110], .srlIndIx 0x9C),
   ([0b11011101, 0b11001011, 0b10011100, 0b00111111], .srlIndIxR 0x9C .a),
   ([0b11011101, 0b11001011, 0b10011100, 0b01101110], .bitBIndIx 5 0x9C),
   ([0b11011101, 0b11001011, 0b10011100, 0b01101010], .bitBIndIxAlias 5 0x9C .d),
   ([0b11011101, 0b11001011, 0b10011100, 0b10101110], .resBIndIx 5 0x9C),
   ([0b11011101, 0b11001011, 0b10011100, 0b10101101], .resBIndIxR 5 0x9C .l),
   ([0b11011101, 0b11001011, 0b10011100, 0b11101110], .setBIndIx 5 0x9C),
   ([0b11011101, 0b11001011, 0b10011100, 0b11101111], .setBIndIxR 5 0x9C .a)]

theorem test_decode_ddcbWords : ddcbWords.all decodesTo = true := by decide

def fdWords1 : List (List Byte × Instr) :=
  [([0b11111101, 0b00101001], .addIyPp .xy),
   ([0b11111101, 0b00100001, 0b00110101, 0b11000001], .ldIyNn 0xC135),
   ([0b11111101, 0b00100010, 0b00110101, 0b11000001], .ldIndNnIy 0xC135),
   ([0b11111101, 0b00100011], .incIy),
   ([0b11111101, 0b00101010, 0b00110101, 0b11000001], .ldIyIndNn 0xC135),
   ([0b11111101, 0b00101011], .decIy),
   ([0b11111101, 0b00101100], .incIyHalf .lo),
   ([0b11111101, 0b00101101], .decIyHalf .lo),
   ([0b11111101, 0b00101110, 0b10011100], .ldIyHalfN .lo 0x9C),
   ([0b11111101, 0b00110100, 0b10011100], .incIndIy 0x9C),
   ([0b11111101, 0b00110101, 0b10011100], .decIndIy 0x9C),
   ([0b11111101, 0b00110110, 0b10011100, 0b00110101], .ldIndIyN 0x9C 0x35),
   ([0b11111101, 0b01101110, 0b10011100], .ldRIndIy .l 0x9C),
   ([0b11111101, 0b01110010, 0b10011100], .ldIndIyR 0x9C .d),
   ([0b11111101, 0b01101101], .ldIyHalfS .lo .xl),
   ([0b11111101, 0b01011101], .ldRIyHalf .e .lo),
   ([0b11111101, 0b10000110, 0b10011100], .addAIndIy 0x9C),
   ([0b11111101, 0b10000101], .addAIyHalf .lo),
   ([0b11111101, 0b10001110, 0b10011100], .adcAIndIy 0x9C),
   ([0b11111101, 0b10001101], .adcAIyHalf .lo),
   ([0b11111101, 0b10010110, 0b10011100], .subIndIy 0x9C),
   ([0b11111101, 0b10010101], .subIyHalf .lo),
   ([0b11111101, 0b10011110, 0b10011100], .sbcAIndIy 0x9C),
   ([0b11111101, 0b10011101], .sbcAIyHalf .lo)]

def fdWords2 : List (List Byte × Instr) :=
  [([0b11111101, 0b10100110, 0b10011100], .andIndIy 0x9C),
   ([0b11111101, 0b10100101], .andIyHalf .lo),
   ([0b11111101, 0b10101110, 0b10011100], .xorIndIy 0x9C),
   ([0b11111101, 0b10101101], .xorIyHalf .lo),
   ([0b11111101, 0b10110110, 0b10011100], .orIndIy 0x9C),
   ([0b11111101, 0b10110101], .orIyHalf .lo),
   ([0b11111101, 0b10111110, 0b10011100], .cpIndIy 0x9C),
   ([0b11111101, 0b10111101], .cpIyHalf .lo),
   ([0b11111101, 0b11100001], .popIy),
   ([0b11111101, 0b11100011], .exIndSpIy),
   ([0b11111101, 0b11100101], .pushIy),
   ([0b11111101, 0b11101001], .jpIy),
   ([0b11111101, 0b11111001], .ldSpIy)]

theorem test_decode_fdWords1 : fdWords1.all decodesTo = true := by decide

theorem test_decode_fdWords2 : fdWords2.all decodesTo = true := by decide

def fdcbWords : List (List Byte × Instr) :=
  [([0b11111101, 0b11001011, 0b10011100, 0b00000110], .rlcIndIy 0x9C),
   ([0b11111101, 0b11001011, 0b10011100, 0b00000111], .rlcIndIyR 0x9C .a),
   ([0b11111101, 0b11001011, 0b10011100, 0b00001110], .rrcIndIy 0x9C),
   ([0b11111101, 0b11001011, 0b10011100, 0b00001010], .rrcIndIyR 0x9C .d),
   ([0b11111101, 0b11001011, 0b10011100, 0b00010110], .rlIndIy 0x9C),
   ([0b11111101, 0b11001011, 0b10011100, 0b00010101], .rlIndIyR 0x9C .l),
   ([0b11111101, 0b11001011, 0b10011100, 0b00011110], .rrIndIy 0x9C),
   ([0b11111101, 0b11001011, 0b10011100, 0b00011111], .rrIndIyR 0x9C .a),
   ([0b11111101, 0b11001011, 0b10011100, 0b00100110], .slaIndIy 0x9C),
   ([0b11111101, 0b11001011, 0b10011100, 0b00100010], .slaIndIyR 0x9C .d),
   ([0b11111101, 0b11001011, 0b10011100, 0b00101110], .sraIndIy 0x9C),
   ([0b11111101, 0b11001011, 0b10011100, 0b00101101], .sraIndIyR 0x9C .l),
   ([0b11111101, 0b11001011, 0b10011100, 0b00110110], .sllIndIy 0x9C),
   ([0b11111101, 0b11001011, 0b10011100, 0b00110111], .sllIndIyR 0x9C .a),
   ([0b11111101, 0b11001011, 0b10011100, 0b00111110], .srlIndIy 0x9C),
   ([0b11111101, 0b11001011, 0b10011100, 0b00111010], .srlIndIyR 0x9C .d),
   ([0b11111101, 0b11001011, 0b10011100, 0b01101110], .bitBIndIy 5 0x9C),
   ([0b11111101, 0b11001011, 0b10011100, 0b01101101], .bitBIndIyAlias 5 0x9C .l),
   ([0b11111101, 0b11001011, 0b10011100, 0b10101110], .resBIndIy 5 0x9C),
   ([0b11111101, 0b11001011, 0b10011100, 0b10101111], .resBIndIyR 5 0x9C .a),
   ([0b11111101, 0b11001011, 0b10011100, 0b11101110], .setBIndIy 5 0x9C),
   ([0b11111101, 0b11001011, 0b10011100, 0b11101010], .setBIndIyR 5 0x9C .d)]

theorem test_decode_fdcbWords : fdcbWords.all decodesTo = true := by decide

def edWords1 : List (List Byte × Instr) :=
  [([0b11101101, 0b01111000], .inRPortC .a),
   ([0b11101101, 0b01110000], .inPortC),
   ([0b11101101, 0b01010001], .outPortCR .d),
   ([0b11101101, 0b01110001], .outPortCZero),
   ([0b11101101, 0b01110010], .sbcHlSs .sp),
   ([0b11101101, 0b01111010], .adcHlSs .sp),
   ([0b11101101, 0b01110011, 0b00110101, 0b11000001], .ldIndNnDd .sp 0xC135),
   ([0b11101101, 0b01111011, 0b00110101, 0b11000001], .ldDdIndNn .sp 0xC135),
   ([0b11101101, 0b01000100], .neg),
   ([0b11101101, 0b01110100], .negMirror 6),
   ([0b11101101, 0b01000101], .retn),
   ([0b11101101, 0b01001101], .reti),
   ([0b11101101, 0b01101101], .retnMirror 5),
   ([0b11101101, 0b01000110], .im0),
   ([0b11101101, 0b01010110], .im1),
   ([0b11101101, 0b01011110], .im2),
   ([0b11101101, 0b01101110], .im0Mirror 5),
   ([0b11101101, 0b01110110], .im1Mirror),
   ([0b11101101, 0b01111110], .im2Mirror),
   ([0b11101101, 0b01000111], .ldIA),
   ([0b11101101, 0b01001111], .ldRA),
   ([0b11101101, 0b01010111], .ldAI),
   ([0b11101101, 0b01011111], .ldAR),
   ([0b11101101, 0b01100111], .rrd)]

def edWords2 : List (List Byte × Instr) :=
  [([0b11101101, 0b01101111], .rld),
   ([0b11101101, 0b10100000], .ldi),
   ([0b11101101, 0b10100001], .cpi),
   ([0b11101101, 0b10100010], .ini),
   ([0b11101101, 0b10100011], .outi),
   ([0b11101101, 0b10101000], .ldd),
   ([0b11101101, 0b10101001], .cpd),
   ([0b11101101, 0b10101010], .ind),
   ([0b11101101, 0b10101011], .outd),
   ([0b11101101, 0b10110000], .ldir),
   ([0b11101101, 0b10110001], .cpir),
   ([0b11101101, 0b10110010], .inir),
   ([0b11101101, 0b10110011], .otir),
   ([0b11101101, 0b10111000], .lddr),
   ([0b11101101, 0b10111001], .cpdr),
   ([0b11101101, 0b10111010], .indr),
   ([0b11101101, 0b10111011], .otdr)]

theorem test_decode_edWords1 : edWords1.all decodesTo = true := by decide

theorem test_decode_edWords2 : edWords2.all decodesTo = true := by decide

/-! ### Steps -/

/-- What `f` finds in the state after one step that runs the bytes `bs` at PC. -/
def after {α : Type} (s : State) (bs : List Byte) (f : State → α) : Option α :=
  match step (s.placeAtPc bs) with
  | .next t => some (f t)
  | .fault _ => none
  | .refused _ => none

/-- The state with the bytes `cells` in memory. -/
def holding (s : State) (cells : List (Word × Byte)) : State :=
  cells.foldl (fun s c => { s with mmu := s.mmu.load c.1 c.2 }) s

/-! ### One step of an instruction (the vectors of spec/95_test_vectors.md, by their names there) -/

/-- T1. -/
theorem test_ldRN :
    after State.reset [0x3E, 0x05] (fun t => (t.main.a, t.pc, t.cycles)) =
      some (0x05, 0x0002, 7) := by decide

/-- T2. -/
theorem test_ldRR :
    after { State.reset with main := { RegSet.zero with b := 0x12 } } [0x78] (fun t => (t.main.a, t.pc, t.cycles)) =
      some (0x12, 0x0001, 4) := by decide

/-- T3. -/
theorem test_ldRIndHl :
    after (holding { State.reset with main := { RegSet.zero with h := 0xC1, l := 0x23 } } [(0xC123, 0x5A)]) [0x46] (fun t => (t.main.b, t.pc, t.cycles)) =
      some (0x5A, 0x0001, 7) := by decide

/-- T4. -/
theorem test_ldIndHlR :
    after { State.reset with main := { RegSet.zero with h := 0xC1, l := 0x23, a := 0xA5 } } [0x77] (fun t => (t.pc, t.cycles, t.read 0xC123)) =
      some (0x0001, 7, 0xA5) := by decide

/-- T5. -/
theorem test_ldIndHlN :
    after { State.reset with main := { RegSet.zero with h := 0xC1, l := 0x23 } } [0x36, 0x7F] (fun t => (t.pc, t.cycles, t.read 0xC123)) =
      some (0x0002, 10, 0x7F) := by decide

/-- T6. -/
theorem test_ldRIndIx :
    after (holding { State.reset with ixh := 0xC1, ixl := 0x00 } [(0xC0FE, 0x99)]) [0xDD, 0x7E, 0xFE] (fun t => (t.main.a, t.pc, t.cycles)) =
      some (0x99, 0x0003, 19) := by decide

/-- T7. -/
theorem test_ldIndIyR :
    after { State.reset with main := { RegSet.zero with c := 0x42 }, iyh := 0xC0, iyl := 0x7F } [0xFD, 0x71, 0x7F] (fun t => (t.pc, t.cycles, t.read 0xC0FE)) =
      some (0x0003, 19, 0x42) := by decide

/-- T8. -/
theorem test_ldIndIxN :
    after { State.reset with ixh := 0xC1, ixl := 0x80 } [0xDD, 0x36, 0x80, 0xEE] (fun t => (t.pc, t.cycles, t.read 0xC100)) =
      some (0x0004, 19, 0xEE) := by decide

/-- T10. -/
theorem test_ldAIndBc :
    after (holding { State.reset with main := { RegSet.zero with b := 0xC0, c := 0x10 } } [(0xC010, 0x33)]) [0x0A] (fun t => (t.main.a, t.pc, t.cycles)) =
      some (0x33, 0x0001, 7) := by decide

/-- T11. -/
theorem test_ldIndDeA :
    after { State.reset with main := { RegSet.zero with d := 0xC0, e := 0x11, a := 0x44 } } [0x12] (fun t => (t.pc, t.cycles, t.read 0xC011)) =
      some (0x0001, 7, 0x44) := by decide

/-- T12. -/
theorem test_ldAIndNn :
    after (holding State.reset [(0xC234, 0x56)]) [0x3A, 0x34, 0xC2] (fun t => (t.main.a, t.pc, t.cycles)) =
      some (0x56, 0x0003, 13) := by decide

/-- T13. -/
theorem test_ldIndNnA :
    after { State.reset with main := { RegSet.zero with a := 0x9C } } [0x32, 0xFB, 0xFF] (fun t => (t.pc, t.cycles, t.read 0xFFFB)) =
      some (0x0003, 13, 0x9C) := by decide

/-- T14. -/
theorem test_ldAI :
    after { State.reset with main := { RegSet.zero with f := 0x01 }, i := 0x80, iff2 := true, r := 0x10 } [0xED, 0x57] (fun t => (t.main.a, t.main.f, t.pc, t.cycles)) =
      some (0x80, 0x85, 0x0002, 9) := by decide

/-- T15. -/
theorem test_ldAR :
    after { State.reset with main := { RegSet.zero with f := 0xFF }, r := 0x7E, iff2 := false } [0xED, 0x5F] (fun t => (t.main.f, t.r, t.pc, t.cycles)) =
      some (0x41, 0x00, 0x0002, 9) := by decide

/-- T17. -/
theorem test_ldRA :
    after { State.reset with main := { RegSet.zero with a := 0xC3 }, r := 0x05 } [0xED, 0x4F] (fun t => (t.r, t.pc, t.cycles)) =
      some (0xC3, 0x0002, 9) := by decide

/-- T18. -/
theorem test_ldIA :
    after { State.reset with main := { RegSet.zero with a := 0x12 } } [0xED, 0x47] (fun t => (t.i, t.pc, t.cycles)) =
      some (0x12, 0x0002, 9) := by decide

/-- T19. -/
theorem test_ldRIxHalf :
    after { State.reset with main := { RegSet.zero with b := 0x00 }, ixh := 0x12, ixl := 0x34 } [0xDD, 0x44] (fun t => (t.main.b, t.pc, t.cycles)) =
      some (0x12, 0x0002, 8) := by decide

/-- T20. -/
theorem test_ldIyHalfS :
    after { State.reset with main := { RegSet.zero with a := 0xAB }, iyh := 0x12, iyl := 0x34 } [0xFD, 0x6F] (fun t => (t.getXY .iy, t.pc, t.cycles)) =
      some (0x12AB, 0x0002, 8) := by decide

/-- T21. -/
theorem test_ldIxHalfN :
    after { State.reset with ixh := 0x12, ixl := 0x34 } [0xDD, 0x26, 0x99] (fun t => (t.getXY .ix, t.pc, t.cycles)) =
      some (0x9934, 0x0003, 11) := by decide

/-- T22. -/
theorem test_ldDdNn :
    after State.reset [0x01, 0x34, 0x12] (fun t => (t.main.b, t.main.c, t.pc, t.cycles)) =
      some (0x12, 0x34, 0x0003, 10) := by decide

/-- T24. -/
theorem test_ldIxNn :
    after State.reset [0xDD, 0x21, 0xCD, 0xAB] (fun t => (t.getXY .ix, t.pc, t.cycles)) =
      some (0xABCD, 0x0004, 14) := by decide

/-- T25. -/
theorem test_ldHlIndNn :
    after (holding State.reset [(0xC000, 0x78), (0xC001, 0x56)]) [0x2A, 0x00, 0xC0] (fun t => (t.main.h, t.main.l, t.pc, t.cycles)) =
      some (0x56, 0x78, 0x0003, 16) := by decide

/-- T26. -/
theorem test_ldDdIndNn :
    after (holding State.reset [(0xDFFF, 0x11), (0xE000, 0x22)]) [0xED, 0x5B, 0xFF, 0xDF] (fun t => (t.main.d, t.main.e, t.pc, t.cycles)) =
      some (0x22, 0x11, 0x0004, 20) := by decide

/-- T28. -/
theorem test_ldIndNnHl :
    after { State.reset with main := { RegSet.zero with h := 0xBE, l := 0xEF } } [0x22, 0x10, 0xC0] (fun t => (t.pc, t.cycles, t.read 0xC010, t.read 0xC011)) =
      some (0x0003, 16, 0xEF, 0xBE) := by decide

/-- T29. -/
theorem test_ldIndNnDd :
    after { State.reset with sp := 0xD123 } [0xED, 0x73, 0x20, 0xC0] (fun t => (t.pc, t.cycles, t.read 0xC020, t.read 0xC021)) =
      some (0x0004, 20, 0x23, 0xD1) := by decide

/-- T30. -/
theorem test_ldIndNnIy :
    after { State.reset with iyh := 0xCA, iyl := 0xFE } [0xFD, 0x22, 0x30, 0xC0] (fun t => (t.pc, t.cycles, t.read 0xC030, t.read 0xC031)) =
      some (0x0004, 20, 0xFE, 0xCA) := by decide

/-- T31. -/
theorem test_ldSpHl :
    after { State.reset with main := { RegSet.zero with h := 0xD0, l := 0x00 } } [0xF9] (fun t => (t.sp, t.pc, t.cycles)) =
      some (0xD000, 0x0001, 6) := by decide

/-- T32. -/
theorem test_ldSpIx :
    after { State.reset with ixh := 0xD0, ixl := 0x0F } [0xDD, 0xF9] (fun t => (t.sp, t.pc, t.cycles)) =
      some (0xD00F, 0x0002, 10) := by decide

/-- T33. -/
theorem test_pushQq :
    after { State.reset with main := { RegSet.zero with b := 0x12, c := 0x34 }, sp := 0xD000 } [0xC5] (fun t => (t.sp, t.pc, t.cycles, t.read 0xCFFE, t.read 0xCFFF)) =
      some (0xCFFE, 0x0001, 11, 0x34, 0x12) := by decide

/-- T35. -/
theorem test_popQq :
    after (holding { State.reset with sp := 0xC100 } [(0xC100, 0xFF), (0xC101, 0x80)]) [0xF1] (fun t => (t.main.a, t.main.f, t.sp, t.pc, t.cycles)) =
      some (0x80, 0xFF, 0xC102, 0x0001, 10) := by decide

/-- T36. -/
theorem test_popIx :
    after (holding { State.reset with sp := 0xDFFE } [(0xDFFE, 0xCD), (0xDFFF, 0xAB)]) [0xDD, 0xE1] (fun t => (t.getXY .ix, t.sp, t.pc, t.cycles)) =
      some (0xABCD, 0xE000, 0x0002, 14) := by decide

/-- T38. -/
theorem test_exDeHl :
    after { State.reset with main := { RegSet.zero with d := 0x11, e := 0x11, h := 0x22, l := 0x22 } } [0xEB] (fun t => (t.main.d, t.main.e, t.pc, t.cycles)) =
      some (0x22, 0x22, 0x0001, 4) := by decide

/-- T39. -/
theorem test_exAfAf :
    after { State.reset with main := { RegSet.zero with a := 0x01, f := 0x02 }, shadow := { RegSet.zero with a := 0x03, f := 0x04 } } [0x08] (fun t => (t.main.a, t.main.f, t.shadow.a, t.pc, t.cycles)) =
      some (0x03, 0x04, 0x01, 0x0001, 4) := by decide

/-- T40. -/
theorem test_exx :
    after { State.reset with main := { RegSet.zero with b := 0x01, c := 0x02, d := 0x03, e := 0x04, h := 0x05, l := 0x06 }, shadow := { RegSet.zero with b := 0x11, c := 0x12, d := 0x13, e := 0x14, h := 0x15, l := 0x16 } } [0xD9] (fun t => (t.main.b, t.main.c, t.shadow.l, t.pc, t.cycles)) =
      some (0x11, 0x12, 0x06, 0x0001, 4) := by decide

/-- T41. -/
theorem test_exIndSpHl :
    after (holding { State.reset with main := { RegSet.zero with h := 0x12, l := 0x34 }, sp := 0xC200 } [(0xC200, 0x78), (0xC201, 0x56)]) [0xE3] (fun t => (t.main.h, t.main.l, t.pc, t.cycles, t.read 0xC200, t.read 0xC201)) =
      some (0x56, 0x78, 0x0001, 19, 0x34, 0x12) := by decide

/-- T42. -/
theorem test_exIndSpIx :
    after (holding { State.reset with sp := 0xC200, ixh := 0x12, ixl := 0x34 } [(0xC200, 0x78), (0xC201, 0x56)]) [0xDD, 0xE3] (fun t => (t.getXY .ix, t.pc, t.cycles, t.read 0xC200, t.read 0xC201)) =
      some (0x5678, 0x0002, 23, 0x34, 0x12) := by decide

/-- T43. -/
theorem test_ldi :
    after (holding { State.reset with main := { RegSet.zero with h := 0xC0, l := 0x00, d := 0xC1, e := 0x00, b := 0x00, c := 0x02, a := 0x00, f := 0xFF } } [(0xC000, 0x28)]) [0xED, 0xA0] (fun t => (t.main.f, t.main.c, t.main.e, t.pc, t.cycles, t.read 0xC100)) =
      some (0xCD, 0x01, 0x01, 0x0002, 16, 0x28) := by decide

/-- T45. -/
theorem test_ldd :
    after (holding { State.reset with main := { RegSet.zero with h := 0xC0, l := 0x00, d := 0xC1, e := 0x00, b := 0x00, c := 0x00 } } [(0xC000, 0x55)]) [0xED, 0xA8] (fun t => (t.main.f, t.main.b, t.main.c, t.pc, t.cycles, t.read 0xC100)) =
      some (0x04, 0xFF, 0xFF, 0x0002, 16, 0x55) := by decide

/-- T46. -/
theorem test_ldir :
    after (holding { State.reset with main := { RegSet.zero with h := 0xC0, l := 0x00, d := 0xC1, e := 0x00, b := 0x00, c := 0x02 } } [(0xC000, 0xAA), (0xC001, 0xBB)]) [0xED, 0xB0] (fun t => (t.main.f, t.main.c, t.main.e, t.pc, t.cycles, t.read 0xC100)) =
      some (0x2C, 0x01, 0x01, 0x0000, 21, 0xAA) := by decide

/-- T48. -/
theorem test_lddr :
    after (holding { State.reset with main := { RegSet.zero with h := 0xC0, l := 0x01, d := 0xC1, e := 0x01, b := 0x00, c := 0x01 } } [(0xC001, 0x77)]) [0xED, 0xB8] (fun t => (t.main.f, t.main.c, t.main.e, t.pc, t.cycles, t.read 0xC101)) =
      some (0x20, 0x00, 0x00, 0x0002, 16, 0x77) := by decide

/-- T49. -/
theorem test_cpi :
    after (holding { State.reset with main := { RegSet.zero with a := 0x10, h := 0xC0, l := 0x00, b := 0x00, c := 0x05, f := 0x01 } } [(0xC000, 0x10)]) [0xED, 0xA1] (fun t => (t.main.f, t.main.c, t.main.l, t.pc, t.cycles)) =
      some (0x47, 0x04, 0x01, 0x0002, 16) := by decide

/-- T51. -/
theorem test_cpd :
    after (holding { State.reset with main := { RegSet.zero with a := 0x00, h := 0xC0, l := 0x05, b := 0x00, c := 0x03 } } [(0xC005, 0x01)]) [0xED, 0xA9] (fun t => (t.main.f, t.main.c, t.main.l, t.pc, t.cycles)) =
      some (0xBE, 0x02, 0x04, 0x0002, 16) := by decide

/-- T52. -/
theorem test_cpir :
    after (holding { State.reset with main := { RegSet.zero with a := 0x33, h := 0xC0, l := 0x00, b := 0x00, c := 0x03 } } [(0xC000, 0x11), (0xC001, 0x33), (0xC002, 0x33)]) [0xED, 0xB1] (fun t => (t.main.f, t.main.c, t.main.l, t.pc, t.cycles)) =
      some (0x26, 0x02, 0x01, 0x0000, 21) := by decide

/-- T54. -/
theorem test_cpdr :
    after (holding { State.reset with main := { RegSet.zero with a := 0x33, h := 0xC0, l := 0x02, b := 0x00, c := 0x01 } } [(0xC002, 0x00)]) [0xED, 0xB9] (fun t => (t.main.f, t.main.c, t.main.l, t.pc, t.cycles)) =
      some (0x22, 0x00, 0x01, 0x0002, 16) := by decide

/-- T55. -/
theorem test_xorR :
    after { State.reset with main := { RegSet.zero with a := 0x05, f := 0xFF } } [0xAF] (fun t => (t.main.a, t.main.f, t.pc, t.cycles)) =
      some (0x00, 0x44, 0x0001, 4) := by decide

/-- T56. -/
theorem test_addAR :
    after { State.reset with main := { RegSet.zero with a := 0x7F, b := 0x01 } } [0x80] (fun t => (t.main.a, t.main.f, t.pc, t.cycles)) =
      some (0x80, 0x94, 0x0001, 4) := by decide

/-- T60. -/
theorem test_adcAN :
    after { State.reset with main := { RegSet.zero with a := 0xFF, f := 0x01 } } [0xCE, 0x00] (fun t => (t.main.a, t.main.f, t.pc, t.cycles)) =
      some (0x00, 0x51, 0x0002, 7) := by decide

/-- T62. -/
theorem test_subR :
    after { State.reset with main := { RegSet.zero with a := 0x00, h := 0x01 } } [0x94] (fun t => (t.main.a, t.main.f, t.pc, t.cycles)) =
      some (0xFF, 0xBB, 0x0001, 4) := by decide

/-- T65. -/
theorem test_sbcAN :
    after { State.reset with main := { RegSet.zero with a := 0x00, f := 0x01 } } [0xDE, 0x00] (fun t => (t.main.a, t.main.f, t.pc, t.cycles)) =
      some (0xFF, 0xBB, 0x0002, 7) := by decide

/-- T67. -/
theorem test_andR :
    after { State.reset with main := { RegSet.zero with a := 0xF0, b := 0x3C } } [0xA0] (fun t => (t.main.a, t.main.f, t.pc, t.cycles)) =
      some (0x30, 0x34, 0x0001, 4) := by decide

/-- T70. -/
theorem test_orR :
    after { State.reset with main := { RegSet.zero with a := 0x80, c := 0x01 } } [0xB1] (fun t => (t.main.a, t.main.f, t.pc, t.cycles)) =
      some (0x81, 0x84, 0x0001, 4) := by decide

/-- T71. -/
theorem test_cpR :
    after { State.reset with main := { RegSet.zero with a := 0x28, b := 0x00, f := 0x00 } } [0xB8] (fun t => (t.main.f, t.pc, t.cycles)) =
      some (0x02, 0x0001, 4) := by decide

/-- T75. -/
theorem test_subIndIx :
    after (holding { State.reset with main := { RegSet.zero with a := 0x01 }, ixh := 0xC0, ixl := 0x10 } [(0xC00F, 0x01)]) [0xDD, 0x96, 0xFF] (fun t => (t.main.a, t.main.f, t.pc, t.cycles)) =
      some (0x00, 0x42, 0x0003, 19) := by decide

/-- T76. -/
theorem test_addAIxHalf :
    after { State.reset with main := { RegSet.zero with a := 0x10 }, ixh := 0x20, ixl := 0x01 } [0xDD, 0x84] (fun t => (t.main.a, t.main.f, t.pc, t.cycles)) =
      some (0x30, 0x20, 0x0002, 8) := by decide

/-- T77. -/
theorem test_incR :
    after { State.reset with main := { RegSet.zero with b := 0x7F, f := 0x01 } } [0x04] (fun t => (t.main.f, t.main.b, t.pc, t.cycles)) =
      some (0x95, 0x80, 0x0001, 4) := by decide

/-- T79. -/
theorem test_decR :
    after { State.reset with main := { RegSet.zero with c := 0x80, f := 0x00 } } [0x0D] (fun t => (t.main.f, t.main.c, t.pc, t.cycles)) =
      some (0x3E, 0x7F, 0x0001, 4) := by decide

/-- T82. -/
theorem test_incIndHl :
    after (holding { State.reset with main := { RegSet.zero with h := 0xC0, l := 0x00 } } [(0xC000, 0x0F)]) [0x34] (fun t => (t.main.f, t.pc, t.cycles, t.read 0xC000)) =
      some (0x10, 0x0001, 11, 0x10) := by decide

/-- T83. -/
theorem test_decIndIy :
    after (holding { State.reset with iyh := 0xC0, iyl := 0x00 } [(0xC005, 0x10)]) [0xFD, 0x35, 0x05] (fun t => (t.main.f, t.pc, t.cycles, t.read 0xC005)) =
      some (0x1A, 0x0003, 23, 0x0F) := by decide

/-- T84. -/
theorem test_incIxHalf :
    after { State.reset with ixh := 0xFF, ixl := 0x00 } [0xDD, 0x24] (fun t => (t.main.f, t.getXY .ix, t.pc, t.cycles)) =
      some (0x50, 0x0000, 0x0002, 8) := by decide

/-- T86. -/
theorem test_daa :
    after { State.reset with main := { RegSet.zero with a := 0x9A, f := 0x00 } } [0x27] (fun t => (t.main.a, t.main.f, t.pc, t.cycles)) =
      some (0x00, 0x55, 0x0001, 4) := by decide

/-- T90. -/
theorem test_cpl :
    after { State.reset with main := { RegSet.zero with a := 0x5A, f := 0xC5 } } [0x2F] (fun t => (t.main.a, t.main.f, t.pc, t.cycles)) =
      some (0xA5, 0xF7, 0x0001, 4) := by decide

/-- T91. -/
theorem test_neg :
    after { State.reset with main := { RegSet.zero with a := 0x01, f := 0x00 } } [0xED, 0x44] (fun t => (t.main.a, t.main.f, t.pc, t.cycles)) =
      some (0xFF, 0xBB, 0x0002, 8) := by decide

/-- T95. -/
theorem test_ccf :
    after { State.reset with main := { RegSet.zero with a := 0x28, f := 0x01 } } [0x3F] (fun t => (t.main.f, t.pc, t.cycles)) =
      some (0x38, 0x0001, 4) := by decide

/-- T97. -/
theorem test_scf :
    after { State.reset with main := { RegSet.zero with a := 0x00, f := 0xFE } } [0x37] (fun t => (t.main.f, t.pc, t.cycles)) =
      some (0xC5, 0x0001, 4) := by decide

/-- T98. -/
theorem test_nop :
    after { State.reset with main := { RegSet.zero with f := 0xFF }, r := 0x7F } [0x00] (fun t => (t.r, t.pc, t.cycles)) =
      some (0x00, 0x0001, 4) := by decide

/-- T99. -/
theorem test_di :
    after { State.reset with iff1 := true, iff2 := true } [0xF3] (fun t => (t.iff1, t.iff2, t.pc, t.cycles)) =
      some (false, false, 0x0001, 4) := by decide

/-- T100. -/
theorem test_ei :
    after State.reset [0xFB] (fun t => (t.iff1, t.iff2, t.postEi, t.pc, t.cycles)) =
      some (true, true, true, 0x0001, 4) := by decide

/-- T101. -/
theorem test_im1 :
    after State.reset [0xED, 0x56] (fun t => (t.im, t.pc, t.cycles)) =
      some (.im1, 0x0002, 8) := by decide

/-- T102. -/
theorem test_im2 :
    after { State.reset with im := .im1 } [0xED, 0x5E] (fun t => (t.im, t.pc, t.cycles)) =
      some (.im2, 0x0002, 8) := by decide

/-- T103. -/
theorem test_im0 :
    after { State.reset with im := .im2 } [0xED, 0x46] (fun t => (t.im, t.pc, t.cycles)) =
      some (.im0, 0x0002, 8) := by decide

/-- T104. -/
theorem test_halt :
    after State.reset [0x76] (fun t => (t.halted, t.pc, t.cycles)) =
      some (true, 0x0001, 4) := by decide

/-- T106. -/
theorem test_addHlSs :
    after { State.reset with main := { RegSet.zero with h := 0x0F, l := 0xFF, b := 0x00, c := 0x01, f := 0xC4 } } [0x09] (fun t => (t.main.f, t.main.h, t.main.l, t.pc, t.cycles)) =
      some (0xD4, 0x10, 0x00, 0x0001, 11) := by decide

/-- T110. -/
theorem test_adcHlSs :
    after { State.reset with main := { RegSet.zero with h := 0x7F, l := 0xFF, b := 0x00, c := 0x00, f := 0x01 } } [0xED, 0x4A] (fun t => (t.main.f, t.main.h, t.main.l, t.pc, t.cycles)) =
      some (0x94, 0x80, 0x00, 0x0002, 15) := by decide

/-- T112. -/
theorem test_sbcHlSs :
    after { State.reset with main := { RegSet.zero with h := 0x00, l := 0x00, b := 0x00, c := 0x01, f := 0x00 } } [0xED, 0x42] (fun t => (t.main.f, t.main.h, t.main.l, t.pc, t.cycles)) =
      some (0xBB, 0xFF, 0xFF, 0x0002, 15) := by decide

/-- T115. -/
theorem test_addIxPp :
    after { State.reset with main := { RegSet.zero with b := 0x00, c := 0x01 }, ixh := 0x0F, ixl := 0xFF } [0xDD, 0x09] (fun t => (t.main.f, t.getXY .ix, t.pc, t.cycles)) =
      some (0x10, 0x1000, 0x0002, 15) := by decide

/-- T116. -/
theorem test_addIyPp :
    after { State.reset with iyh := 0x80, iyl := 0x00 } [0xFD, 0x29] (fun t => (t.main.f, t.getXY .iy, t.pc, t.cycles)) =
      some (0x01, 0x0000, 0x0002, 15) := by decide

/-- T117. -/
theorem test_incSs :
    after { State.reset with main := { RegSet.zero with b := 0xFF, c := 0xFF, f := 0xAA } } [0x03] (fun t => (t.main.b, t.main.c, t.pc, t.cycles)) =
      some (0x00, 0x00, 0x0001, 6) := by decide

/-- T118. -/
theorem test_decSs :
    after { State.reset with main := { RegSet.zero with f := 0x55 }, sp := 0x00 } [0x3B] (fun t => (t.sp, t.pc, t.cycles)) =
      some (0xFFFF, 0x0001, 6) := by decide

/-- T119. -/
theorem test_incIx :
    after { State.reset with ixh := 0x00, ixl := 0xFF } [0xDD, 0x23] (fun t => (t.getXY .ix, t.pc, t.cycles)) =
      some (0x0100, 0x0002, 10) := by decide

/-- T120. -/
theorem test_decIy :
    after { State.reset with iyh := 0x00, iyl := 0x00 } [0xFD, 0x2B] (fun t => (t.getXY .iy, t.pc, t.cycles)) =
      some (0xFFFF, 0x0002, 10) := by decide

/-- T121. -/
theorem test_rlca :
    after { State.reset with main := { RegSet.zero with a := 0x81, f := 0xC4 } } [0x07] (fun t => (t.main.a, t.main.f, t.pc, t.cycles)) =
      some (0x03, 0xC5, 0x0001, 4) := by decide

/-- T122. -/
theorem test_rrca :
    after { State.reset with main := { RegSet.zero with a := 0x01, f := 0x00 } } [0x0F] (fun t => (t.main.a, t.main.f, t.pc, t.cycles)) =
      some (0x80, 0x01, 0x0001, 4) := by decide

/-- T123. -/
theorem test_rla :
    after { State.reset with main := { RegSet.zero with a := 0x80, f := 0x00 } } [0x17] (fun t => (t.main.a, t.main.f, t.pc, t.cycles)) =
      some (0x00, 0x01, 0x0001, 4) := by decide

/-- T124. -/
theorem test_rra :
    after { State.reset with main := { RegSet.zero with a := 0x01, f := 0x01 } } [0x1F] (fun t => (t.main.a, t.pc, t.cycles)) =
      some (0x80, 0x0001, 4) := by decide

/-- T125. -/
theorem test_rlcR :
    after { State.reset with main := { RegSet.zero with b := 0x80 } } [0xCB, 0x00] (fun t => (t.main.f, t.main.b, t.pc, t.cycles)) =
      some (0x01, 0x01, 0x0002, 8) := by decide

/-- T126. -/
theorem test_rrcR :
    after { State.reset with main := { RegSet.zero with c := 0x01 } } [0xCB, 0x09] (fun t => (t.main.f, t.main.c, t.pc, t.cycles)) =
      some (0x81, 0x80, 0x0002, 8) := by decide

/-- T127. -/
theorem test_rlR :
    after { State.reset with main := { RegSet.zero with d := 0x80, f := 0x00 } } [0xCB, 0x12] (fun t => (t.main.f, t.main.d, t.pc, t.cycles)) =
      some (0x45, 0x00, 0x0002, 8) := by decide

/-- T128. -/
theorem test_rrR :
    after { State.reset with main := { RegSet.zero with e := 0x00, f := 0x01 } } [0xCB, 0x1B] (fun t => (t.main.f, t.main.e, t.pc, t.cycles)) =
      some (0x80, 0x80, 0x0002, 8) := by decide

/-- T129. -/
theorem test_slaR :
    after { State.reset with main := { RegSet.zero with h := 0xC0 } } [0xCB, 0x24] (fun t => (t.main.f, t.main.h, t.pc, t.cycles)) =
      some (0x81, 0x80, 0x0002, 8) := by decide

/-- T130. -/
theorem test_sraR :
    after { State.reset with main := { RegSet.zero with l := 0x81 } } [0xCB, 0x2D] (fun t => (t.main.f, t.main.l, t.pc, t.cycles)) =
      some (0x85, 0xC0, 0x0002, 8) := by decide

/-- T131. -/
theorem test_srlR :
    after { State.reset with main := { RegSet.zero with a := 0x01 } } [0xCB, 0x3F] (fun t => (t.main.a, t.main.f, t.pc, t.cycles)) =
      some (0x00, 0x45, 0x0002, 8) := by decide

/-- T132. -/
theorem test_sllR :
    after { State.reset with main := { RegSet.zero with b := 0x80 } } [0xCB, 0x30] (fun t => (t.main.f, t.main.b, t.pc, t.cycles)) =
      some (0x01, 0x01, 0x0002, 8) := by decide

/-- T134. -/
theorem test_rrIndIx :
    after (holding { State.reset with ixh := 0xC0, ixl := 0x00 } [(0xC002, 0x81)]) [0xDD, 0xCB, 0x02, 0x1E] (fun t => (t.main.f, t.pc, t.cycles, t.read 0xC002)) =
      some (0x01, 0x0004, 23, 0x40) := by decide

/-- T135. -/
theorem test_slaIndIyR :
    after (holding { State.reset with main := { RegSet.zero with b := 0xFF }, iyh := 0xC0, iyl := 0x10 } [(0xC00F, 0x40)]) [0xFD, 0xCB, 0xFF, 0x20] (fun t => (t.main.f, t.main.b, t.pc, t.cycles, t.read 0xC00F)) =
      some (0x80, 0x80, 0x0004, 23, 0x80) := by decide

/-- T136. -/
theorem test_rld :
    after (holding { State.reset with main := { RegSet.zero with a := 0x7A, h := 0xC0, l := 0x00, f := 0x01 } } [(0xC000, 0x31)]) [0xED, 0x6F] (fun t => (t.main.a, t.main.f, t.pc, t.cycles, t.read 0xC000)) =
      some (0x73, 0x21, 0x0002, 18, 0x1A) := by decide

/-- T137. -/
theorem test_rrd :
    after (holding { State.reset with main := { RegSet.zero with a := 0x84, h := 0xC0, l := 0x00, f := 0x00 } } [(0xC000, 0x20)]) [0xED, 0x67] (fun t => (t.main.a, t.main.f, t.pc, t.cycles, t.read 0xC000)) =
      some (0x80, 0x80, 0x0002, 18, 0x42) := by decide

/-- T138. -/
theorem test_bitBR :
    after { State.reset with main := { RegSet.zero with b := 0x80, f := 0x01 } } [0xCB, 0x78] (fun t => (t.main.f, t.pc, t.cycles)) =
      some (0x91, 0x0002, 8) := by decide

/-- T141. -/
theorem test_bitBIndIx :
    after (holding { State.reset with ixh := 0xE8, ixl := 0xF8 } [(0xE908, 0x10)]) [0xDD, 0xCB, 0x10, 0x66] (fun t => (t.main.f, t.pc, t.cycles)) =
      some (0x38, 0x0004, 20) := by decide

/-- T143. -/
theorem test_setBR :
    after { State.reset with main := { RegSet.zero with d := 0x00 } } [0xCB, 0xFA] (fun t => (t.main.d, t.pc, t.cycles)) =
      some (0x80, 0x0002, 8) := by decide

/-- T144. -/
theorem test_setBIndHl :
    after (holding { State.reset with main := { RegSet.zero with h := 0xC0, l := 0x00 } } [(0xC000, 0x00)]) [0xCB, 0xC6] (fun t => (t.pc, t.cycles, t.read 0xC000)) =
      some (0x0002, 15, 0x01) := by decide

/-- T145. -/
theorem test_setBIndIy :
    after (holding { State.reset with iyh := 0xC0, iyl := 0x00 } [(0xC07F, 0x0F)]) [0xFD, 0xCB, 0x7F, 0xDE] (fun t => (t.pc, t.cycles)) =
      some (0x0004, 23) := by decide

/-- T146. -/
theorem test_resBR :
    after { State.reset with main := { RegSet.zero with e := 0xFF, f := 0xFF } } [0xCB, 0x83] (fun t => (t.main.e, t.pc, t.cycles)) =
      some (0xFE, 0x0002, 8) := by decide

/-- T147. -/
theorem test_resBIndHl :
    after (holding { State.reset with main := { RegSet.zero with h := 0xC0, l := 0x00 } } [(0xC000, 0xFF)]) [0xCB, 0xBE] (fun t => (t.pc, t.cycles, t.read 0xC000)) =
      some (0x0002, 15, 0x7F) := by decide

/-- T148. -/
theorem test_resBIndIxR :
    after (holding { State.reset with main := { RegSet.zero with a := 0x00 }, ixh := 0xC0, ixl := 0x00 } [(0xC000, 0xFF)]) [0xDD, 0xCB, 0x00, 0x87] (fun t => (t.main.a, t.pc, t.cycles, t.read 0xC000)) =
      some (0xFE, 0x0004, 23, 0xFE) := by decide

/-- T149. -/
theorem test_jpNn :
    after State.reset [0xC3, 0x34, 0x12] (fun t => (t.pc, t.cycles)) =
      some (0x1234, 10) := by decide

/-- T150. -/
theorem test_jpCcNn :
    after { State.reset with main := { RegSet.zero with f := 0x40 } } [0xC2, 0x34, 0x12] (fun t => (t.pc, t.cycles)) =
      some (0x0003, 10) := by decide

/-- T154. -/
theorem test_jrE :
    after { State.reset with pc := 0x0100 } [0x18, 0xFE] (fun t => (t.pc, t.cycles)) =
      some (0x0100, 12) := by decide

/-- T158. -/
theorem test_jrNcE :
    after { State.reset with main := { RegSet.zero with f := 0x40 }, pc := 0x0100 } [0x30, 0x10] (fun t => (t.pc, t.cycles)) =
      some (0x0112, 12) := by decide

/-- T162. -/
theorem test_jrCE :
    after { State.reset with main := { RegSet.zero with f := 0x01 }, pc := 0x0100 } [0x38, 0x10] (fun t => (t.pc, t.cycles)) =
      some (0x0112, 12) := by decide

/-- T163. -/
theorem test_jrZE :
    after { State.reset with main := { RegSet.zero with f := 0x00 }, pc := 0x0100 } [0x28, 0x10] (fun t => (t.pc, t.cycles)) =
      some (0x0102, 7) := by decide

/-- T164. -/
theorem test_jrNzE :
    after { State.reset with main := { RegSet.zero with f := 0x00 }, pc := 0x0100 } [0x20, 0xF0] (fun t => (t.pc, t.cycles)) =
      some (0x00F2, 12) := by decide

/-- T165. -/
theorem test_djnzE :
    after { State.reset with main := { RegSet.zero with b := 0x02, f := 0xFF }, pc := 0x0100 } [0x10, 0xFE] (fun t => (t.main.b, t.pc, t.cycles)) =
      some (0x01, 0x0100, 13) := by decide

/-- T168. -/
theorem test_jpHl :
    after { State.reset with main := { RegSet.zero with h := 0x40, l := 0x00 } } [0xE9] (fun t => (t.pc, t.cycles)) =
      some (0x4000, 4) := by decide

/-- T169. -/
theorem test_jpIx :
    after { State.reset with ixh := 0x80, ixl := 0x01 } [0xDD, 0xE9] (fun t => (t.pc, t.cycles)) =
      some (0x8001, 8) := by decide

/-- T170. -/
theorem test_callNn :
    after { State.reset with pc := 0x1234, sp := 0xD000 } [0xCD, 0x00, 0x40] (fun t => (t.sp, t.pc, t.cycles, t.read 0xCFFE, t.read 0xCFFF)) =
      some (0xCFFE, 0x4000, 17, 0x37, 0x12) := by decide

/-- T171. -/
theorem test_callCcNn :
    after { State.reset with main := { RegSet.zero with f := 0x01 }, pc := 0x1234, sp := 0xD000 } [0xD4, 0x00, 0x40] (fun t => (t.pc, t.cycles)) =
      some (0x1237, 10) := by decide

/-- T173. -/
theorem test_ret :
    after (holding { State.reset with sp := 0xCFFE } [(0xCFFE, 0x37), (0xCFFF, 0x12)]) [0xC9] (fun t => (t.sp, t.pc, t.cycles)) =
      some (0xD000, 0x1237, 10) := by decide

/-- T174. -/
theorem test_retCc :
    after (holding { State.reset with main := { RegSet.zero with f := 0x40 }, sp := 0xCFFE } [(0xCFFE, 0x37), (0xCFFF, 0x12)]) [0xC0] (fun t => (t.pc, t.cycles)) =
      some (0x0001, 5) := by decide

/-- T176. -/
theorem test_reti :
    after (holding { State.reset with sp := 0xCFFE, iff1 := false, iff2 := true } [(0xCFFE, 0x37), (0xCFFF, 0x12)]) [0xED, 0x4D] (fun t => (t.sp, t.iff1, t.pc, t.cycles)) =
      some (0xD000, true, 0x1237, 14) := by decide

/-- T177. -/
theorem test_retn :
    after (holding { State.reset with sp := 0xCFFE, iff1 := true, iff2 := false } [(0xCFFE, 0x37), (0xCFFF, 0x12)]) [0xED, 0x45] (fun t => (t.sp, t.iff1, t.pc, t.cycles)) =
      some (0xD000, false, 0x1237, 14) := by decide

/-- T178. -/
theorem test_rstP :
    after { State.reset with pc := 0x1234, sp := 0xD000 } [0xFF] (fun t => (t.sp, t.pc, t.cycles, t.read 0xCFFE, t.read 0xCFFF)) =
      some (0xCFFE, 0x0038, 11, 0x35, 0x12) := by decide

/-- T181. -/
theorem test_inAPortN :
    after { State.reset with main := { RegSet.zero with a := 0x12, f := 0xFF }, inputs := { buttons := 0x2F, joypadB := 0xFF } } [0xDB, 0xDC] (fun t => (t.main.a, t.pc, t.cycles)) =
      some (0xEF, 0x0002, 11) := by decide

/-- T182. -/
theorem test_inRPortC :
    after { State.reset with main := { RegSet.zero with b := 0x10, c := 0xDC, f := 0x01 }, inputs := { buttons := 0x3F, joypadB := 0xFF } } [0xED, 0x78] (fun t => (t.main.a, t.main.f, t.pc, t.cycles)) =
      some (0xFF, 0xAD, 0x0002, 12) := by decide

/-- T184. -/
theorem test_inPortC :
    after { State.reset with main := { RegSet.zero with b := 0x00, c := 0x00, f := 0x00 } } [0xED, 0x70] (fun t => (t.main.f, t.pc, t.cycles)) =
      some (0xAC, 0x0002, 12) := by decide

/-- T186. -/
theorem test_outPortNA :
    after { State.reset with main := { RegSet.zero with a := 0x9F } } [0xD3, 0x7F] (fun t => (t.pc, t.cycles)) =
      some (0x0002, 11) := by decide

/-- T187. -/
theorem test_outPortCR :
    after { State.reset with main := { RegSet.zero with b := 0x12, c := 0xBF, d := 0x81 } } [0xED, 0x51] (fun t => (t.pc, t.cycles)) =
      some (0x0002, 12) := by decide

/-- T188. -/
theorem test_outPortCZero :
    after { State.reset with main := { RegSet.zero with b := 0x00, c := 0xBE } } [0xED, 0x71] (fun t => (t.pc, t.cycles)) =
      some (0x0002, 12) := by decide

/-- T190. -/
theorem test_ini :
    after { State.reset with main := { RegSet.zero with b := 0x02, c := 0xDC, h := 0xC0, l := 0x00 }, inputs := { buttons := 0x15, joypadB := 0xFF } } [0xED, 0xA2] (fun t => (t.main.f, t.main.b, t.main.l, t.pc, t.cycles, t.read 0xC000)) =
      some (0x17, 0x01, 0x01, 0x0002, 16, 0xD5) := by decide

/-- T191. -/
theorem test_ind :
    after { State.reset with main := { RegSet.zero with b := 0x01, c := 0xDC, h := 0xC0, l := 0x00 }, inputs := { buttons := 0x00, joypadB := 0xFF } } [0xED, 0xAA] (fun t => (t.main.f, t.main.b, t.main.h, t.pc, t.cycles, t.read 0xC000)) =
      some (0x57, 0x00, 0xBF, 0x0002, 16, 0xC0) := by decide

/-- T193. -/
theorem test_indr :
    after { State.reset with main := { RegSet.zero with b := 0x02, c := 0xDC, h := 0xC0, l := 0x00 } } [0xED, 0xBA] (fun t => (t.main.f, t.main.b, t.main.h, t.pc, t.cycles, t.read 0xC000)) =
      some (0x17, 0x01, 0xBF, 0x0000, 21, 0xFF) := by decide

/-- T194. -/
theorem test_outi :
    after (holding { State.reset with main := { RegSet.zero with b := 0x02, c := 0xBE, h := 0xC0, l := 0x00 } } [(0xC000, 0xAA)]) [0xED, 0xA3] (fun t => (t.main.f, t.main.b, t.main.l, t.pc, t.cycles)) =
      some (0x02, 0x01, 0x01, 0x0002, 16) := by decide

/-- T195. -/
theorem test_outd :
    after (holding { State.reset with main := { RegSet.zero with b := 0x01, c := 0xBE, h := 0xC0, l := 0xFF } } [(0xC0FF, 0x80)]) [0xED, 0xAB] (fun t => (t.main.f, t.main.b, t.main.l, t.pc, t.cycles)) =
      some (0x57, 0x00, 0xFE, 0x0002, 16) := by decide

/-- T197. -/
theorem test_otdr :
    after (holding { State.reset with main := { RegSet.zero with b := 0x01, c := 0xBE, h := 0xC0, l := 0x00 } } [(0xC000, 0xFF)]) [0xED, 0xBB] (fun t => (t.main.f, t.main.b, t.main.h, t.pc, t.cycles)) =
      some (0x57, 0x00, 0xBF, 0x0002, 16) := by decide

/-- T142 of spec/95: `BIT b,(HL)` leaves Y and X open; the other six flags are fixed. -/
theorem test_bitBIndHl :
    after (holding { State.reset with main := { RegSet.zero with h := 0xC0, f := 0x01 } } [(0xC000, 0x80)]) [0xCB, 0x7E]
      (fun t => (t.main.f &&& 0xD7, t.freeDraws, t.cycles)) = some (0x91, 1, 12) := by
  have key : ∀ u : Byte, bitFlags 7 0x80 u 0x01 &&& 0xD7 = 0x91 := by decide
  have run : after (holding { State.reset with main := { RegSet.zero with h := 0xC0, f := 0x01 } } [(0xC000, 0x80)]) [0xCB, 0x7E]
      (fun t => (t.main.f &&& 0xD7, t.freeDraws, t.cycles)) = some (bitFlags 7 0x80 (Config.freeByte 0) 0x01 &&& 0xD7, 1, 12) := rfl
  rw [run, key]

/-! ### Placing an instruction by its number in the opcode table -/

theorem test_withFetchWord_first_byte_high :
    decodeTableWord 16 0x3E05 = some (.ldRN .a 0x05) ∧ after (State.reset.withFetchWord 16 0x3E05) [0x3E, 0x05] (·.main.a) = some 0x05 := by
  decide

theorem test_withFetchWord_runs :
    (match step (State.reset.withFetchWord 32 0xDDCB02C6) with
      | .next t => some (t.pc, t.cycles)
      | _ => none) = some (0x0004, 23) := by decide

/-! ### Exceptions (section 4 of spec/95_test_vectors.md) -/

/-- What `f` finds in the state after one step. -/
def stepped {α : Type} (s : State) (f : State → α) : Option α :=
  match step s with
  | .next t => some (f t)
  | .fault _ => none
  | .refused _ => none

/-- Why one step stops, if it stops. -/
def faultOf (s : State) : Option Fault :=
  match step s with
  | .next _ => none
  | .fault r => some r
  | .refused _ => none

/-- The start of X1 to X5: PC = 0x1234, SP = 0xDFF0. -/
def atCall : State := { State.reset with pc := 0x1234, sp := 0xDFF0 }

/-- X1 and X3: the states an NMI and a maskable request are accepted in. -/
def nmiState : State := { atCall with iff1 := true, iff2 := true, pendingNmi := true, pendingInt := true }
def intState : State := { atCall with iff1 := true, iff2 := true, pendingInt := true }

/-- X1. -/
theorem test_nmi_pushes :
    stepped nmiState (fun t => (t.read 0xDFEF, t.read 0xDFEE, t.sp, t.pc, t.cycles)) = some (0x12, 0x34, 0xDFEE, 0x0066, 11) := by decide

/-- X1. -/
theorem test_nmi_enables :
    stepped nmiState (fun t => (t.iff1, t.iff2, t.pendingNmi, t.pendingInt, t.r)) = some (false, true, false, true, 0x01) := by decide

/-- X2. -/
theorem test_int_im1 :
    stepped { intState with im := .im1, r := 0x7F }
      (fun t => ((t.read 0xDFEF, t.read 0xDFEE, t.sp, t.pc), (t.iff1, t.iff2, t.pendingInt), t.r, t.cycles)) =
      some ((0x12, 0x34, 0xDFEE, 0x0038), (false, false, false), 0x00, 13) := by decide

/-- X3. -/
theorem test_int_im0 : stepped intState (fun t => (t.pc, t.cycles, t.r)) = some (0x0038, 13, 0x01) := by decide

/-- X4. -/
theorem test_int_im2 :
    stepped (holding { intState with im := .im2, i := 0xC1 } [(0xC1FF, 0x00), (0xC200, 0x90)]) (fun t => (t.pc, t.cycles, t.iff1)) =
      some (0x9000, 19, false) := by decide

/-- X5. -/
theorem test_int_masked :
    stepped { atCall with pendingInt := true, im := .im1 } (fun t => (t.pc, t.sp, t.pendingInt, t.cycles)) =
      some (0x1235, 0xDFF0, true, 4) := by decide

/-- X6, its second step: a maskable request waits one instruction after `EI`. -/
theorem test_int_after_ei :
    stepped { intState with postEi := true } (fun t => (t.pc, t.pendingInt, t.postEi)) = some (0x1235, true, false) := by decide

/-- X13, its second step: an NMI does not. -/
theorem test_nmi_after_ei :
    stepped { atCall with iff1 := true, iff2 := true, postEi := true, pendingNmi := true } (fun t => (t.pc, t.iff1, t.iff2, t.postEi)) =
      some (0x0066, false, true, false) := by decide

/-- X9, its third step: acceptance leaves the halted state. -/
theorem test_int_wakes :
    stepped { intState with pc := 0x0101, halted := true, im := .im1, cycles := 8, r := 2 }
      (fun t => (t.halted, t.read 0xDFEF, t.read 0xDFEE, t.cycles, t.r)) = some (false, 0x01, 0x01, 21, 3) := by decide

/-- X14. -/
theorem test_unset_ed : faultOf (State.reset.placeAtPc [0xED, 0x00]) = some (.unimplementedOpcode .ed 0x00) := by decide

/-- X15. -/
theorem test_unset_dd : faultOf (State.reset.placeAtPc [0xDD, 0x00]) = some (.unimplementedOpcode .dd 0x00) := by decide

/-- X16. -/
theorem test_unset_dd_fd : faultOf (State.reset.placeAtPc [0xDD, 0xFD, 0x21]) = some (.unimplementedOpcode .dd 0xFD) := by decide

/-- X19. -/
theorem test_control_fault :
    faultOf ({ State.reset with main := { RegSet.zero with a := 0x10 } }.placeAtPc [0x32, 0xFC, 0xFF]) =
      some (.unsupportedMapperControl 0x10) := by decide

/-- A cartridge of four banks. -/
def fourBanks (cells : Memory) : Rom := { cells := cells, moreBanks := 1 }

/-- The state under another mapper. -/
def under (m : Mapper) : State := { State.reset with mmu := { State.reset.mmu with mapper := m, rom := fourBanks [] } }

/-- X20. -/
theorem test_control_codemasters :
    after { under .codemasters with main := { RegSet.zero with a := 0x10 } } [0x32, 0xFC, 0xFF]
      (fun t => (t.read 0xFFFC, t.read 0xDFFC, t.pc, t.cycles)) = some (0x10, 0x10, 0x0003, 13) := by decide

/-- X21. -/
theorem test_wrap_at_top :
    after { State.reset with pc := 0xFFFF, sp := 0xDFF0 } [0x3E, 0x05] (fun t => (t.main.a, t.pc, t.cycles)) =
      some (0x05, 0x0001, 7) := by decide

/-! ### Memory and devices (section 5 of spec/95_test_vectors.md) -/

/-- What `f` finds in the MMU after a store. -/
def stored {α : Type} (m : Mmu) (a : Word) (v : Byte) (f : Mmu → α) : Option α :=
  match m.write a v with
  | .ok n => some (f n)
  | .error _ => none

/-- M1. -/
theorem test_slot2_store :
    stored { (under .sega).mmu with rom := fourBanks [(0x4000, 0x77)] } 0xFFFF 0x05 (fun n => (n.slot2, n.read 0x8000, n.read 0xDFFF, n.read 0xFFFF)) =
      some (1, 0x77, 0x05, 0x05) := by decide

/-- M3. -/
theorem test_slot0_pinned :
    stored { (under .sega).mmu with rom := fourBanks [(0x0000, 0x11), (0x03FF, 0x22), (0x8400, 0x33), (0xBFFF, 0x44)] } 0xFFFD 0x02
      (fun n => (n.read 0x0000, n.read 0x03FF, n.read 0x0400, n.read 0x3FFF)) = some (0x11, 0x22, 0x33, 0x44) := by decide

/-- M4, from its third step. -/
theorem test_ramBank :
    stored { (under .sega).mmu with cartRam := [(0, 0xAB), (0x4000, 0xCD)], ramEnable := true } 0xFFFC 0x0C
      (fun n => (n.ramEnable, n.ramBank, n.read 0x8000)) = some (true, true, 0xCD) := by decide

/-- M8. -/
theorem test_codemasters_slots :
    (stored (under .codemasters).mmu 0x0000 3 (·.slot0), stored (under .codemasters).mmu 0x4000 6 (·.slot1),
      stored (under .codemasters).mmu 0x8000 1 (·.slot2), stored (under .codemasters).mmu 0xFFFF 1 (·.slot2)) =
      (some 3, some 2, some 1, some 2) := by decide

/-- M9. -/
theorem test_korean_slot : (stored (under .korean).mmu 0xA000 6 (·.slot2), stored (under .korean).mmu 0x8000 1 (·.slot2)) = (some 2, some 2) := by
  decide

/-- Q3, Q5, Q6. -/
theorem test_port_reads :
    ({ State.reset with vdp := { State.reset.vdp with vCounter := 0xC0, hCounter := 100 } }.portRead 0x7E).1 = 0xC0 ∧
    ({ State.reset with vdp := { State.reset.vdp with vCounter := 0xC0, hCounter := 100 } }.portRead 0x7F).1 = 100 ∧
    ({ State.reset with inputs := { buttons := 0x3E, joypadB := 0xFF } }.portRead 0xDC).1 = 0xFE ∧
    (State.reset.portRead 0xDE).1 = 0xFF ∧ (State.reset.portRead 0x3F).1 = 0xFF := by decide

/-- T186 (Q4). -/
theorem test_port_psg :
    after { State.reset with main := { RegSet.zero with a := 0x9F }, cycles := 1000 } [0xD3, 0x7F] (·.psg.fifo) =
      some [{ byte := 0x9F, cycle := 1000 }] := by decide

/-- T187. -/
theorem test_port_vdp_latch :
    after { State.reset with main := { RegSet.zero with b := 0x12, c := 0xBF, d := 0x81 } } [0xED, 0x51]
      (fun t => (t.vdp.latch, t.vdp.pending)) = some (0x81, true) := by decide

/-- V1, V4. -/
theorem test_vdp_register :
    ((State.reset.vdp.controlWrite 0xE0).controlWrite 0x81).reg[1] = 0xE0 ∧
    ((State.reset.vdp.controlWrite 0x12).controlWrite 0xB3).reg[3] = 0x12 := by decide

/-- V5. -/
theorem test_vdp_vram :
    let v := ((State.reset.vdp.controlWrite 0x00).controlWrite 0x40).dataWrite 0xAA
    (v.vram.read 0, v.readBuf, v.addr) = (0xAA, 0xAA, 0x0001) := by decide

/-- V7. -/
theorem test_vdp_cram :
    let v := ((State.reset.vdp.controlWrite 0x10).controlWrite 0xC0).dataWrite 0x3F
    (v.cram.read 16, v.addr, v.vram) = (0x3F, 0x0011, []) := by decide

/-- V11. -/
theorem test_vdp_status :
    after { State.reset with vdp := { State.reset.vdp with status := 0xE0, pending := true }, pendingInt := true } [0xDB, 0xBF]
      (fun t => (t.main.a, t.vdp.status, t.vdp.pending, t.pendingInt)) = some (0xE0, 0x00, false, false) := by decide

/-- W3. -/
theorem test_vcount : [0, 191, 192, 218, 219, 220, 261].map vcount = [0x00, 0xBF, 0xC0, 0xDA, 0xD5, 0xD6, 0xFF] := by decide

/-- The VDP of W4: the end of line 191, the frame interrupt enabled. -/
def lastLine : State :=
  { State.reset with vdp := { State.reset.vdp with line := 191, hCounter := 227, vCounter := 0xBF, reg := State.reset.vdp.reg.set 1 0x20 } }

/-- W4. -/
theorem test_frame_interrupt :
    (lastLine.advance 4).vdp.line = 192 ∧ (lastLine.advance 4).vdp.vCounter = 0xC0 ∧ (lastLine.advance 4).vdp.status = 0x80 ∧
      (lastLine.advance 4).pendingInt = true ∧ (lastLine.advance 4).vdp.hCounter = 3 ∧ (lastLine.advance 4).outputs.frameDone = false := by
  decide

/-- W6. -/
theorem test_frame_boundary :
    let t := { State.reset with vdp := { State.reset.vdp with line := 261, hCounter := 227 } }.advance 4
    (t.vdp.line, t.vdp.vCounter, t.outputs.frameDone) = (0, 0, true) := by decide

/-- W7, its first crossing. -/
theorem test_line_interrupt :
    let t := { State.reset with vdp := { State.reset.vdp with reg := (State.reset.vdp.reg.set 0 0x14).set 10 3 } }.advance 228
    (t.vdp.lineCounter, t.pendingInt) = (3, true) := by decide

/-- L1. -/
theorem test_palette :
    palette 0x15 = { r := 85, g := 85, b := 85, a := 255 } ∧ palette 0x30 = { r := 0, g := 0, b := 255, a := 255 } := by decide

/-- G1, G5. -/
theorem test_psg_bytes :
    ((Psg.reset.apply 0x8E).apply 0x3F).tone[0] = 0x3FE ∧ ((Psg.reset.apply 0xE4).apply 0x03).noise = 3 := by decide

/-! ### Witnesses: states and operands that meet the hypotheses of the statements -/

/-- A supported and an unsupported byte for the control register at 0xFFFC. -/
theorem witness_StoreFaults :
    StoreFaults State.reset.mmu 0xFFFC 0x10 ∧ StoreFaults State.reset.mmu 0xFFFC 0x02 ∧ StoreFaults State.reset.mmu 0xFFFC 0x01 ∧
    ¬ StoreFaults State.reset.mmu 0xFFFC 0xEC ∧ ¬ StoreFaults State.reset.mmu 0xFFFB 0xFF ∧
    ¬ StoreFaults (under .codemasters).mmu 0xFFFC 0x10 := by
  unfold StoreFaults; decide

/-- The clauses of `StoreEffect`. -/
theorem witness_StoreEffect :
    IsRam (State.reset.mmu.place 0xC000) ∧ IsRam ({ State.reset.mmu with ramEnable := true }.place 0xBFFF) ∧
    ¬ IsRam (State.reset.mmu.place 0xBFFF) ∧ IsControl State.reset.mmu 0xFFFC ∧ ¬ IsControl (under .korean).mmu 0xFFFC ∧
    slotRegister State.reset.mmu 0xFFFD = some 0 ∧ slotRegister State.reset.mmu 0xFFFE = some 1 ∧
    slotRegister State.reset.mmu 0xFFFF = some 2 ∧ slotRegister State.reset.mmu 0xFFFC = none ∧
    slotRegister (under .codemasters).mmu 0x0000 = some 0 ∧ slotRegister (under .codemasters).mmu 0x4000 = some 1 ∧
    slotRegister (under .codemasters).mmu 0x8000 = some 2 ∧ slotRegister (under .korean).mmu 0xA000 = some 2 := by
  refine ⟨trivial, trivial, id, ⟨rfl, rfl⟩, ?_, ?_⟩
  · unfold IsControl; decide
  · decide

/-- HL, DE, BC and both index registers at the control register, A and L as given. -/
def aimed (a : Byte) : State :=
  { State.reset with
    main := { RegSet.zero with a := a, h := 0xFF, l := 0xFC, d := 0xFF, e := 0xFC }
    ixh := 0xFF, ixl := 0xFC, iyh := 0xFF, iyl := 0xFC }

theorem witness_ByteStores :
    (let s := aimed 0x10; StoreFaults s.mmu s.hl (s.main.get .a) ∧ StoreFaults s.mmu (indexed s .ix 0) (s.main.get .a)) ∧
    (let s := aimed 0x08; ¬ StoreFaults s.mmu s.hl (s.main.get .a) ∧ ¬ StoreFaults s.mmu (indexed s .iy 1) 0xFF) := by
  unfold StoreFaults; decide

theorem witness_WordStoresAndPushes :
    (let s := { aimed 0 with ixl := 0x10, sp := 0xFFFD, main := { RegSet.zero with b := 0x10, c := 0x10 } };
      StoreFaults s.mmu 0xFFFC s.ixl ∧ StoreFaults s.mmu (s.sp - 1) ((s.getQPair .bc).extractLsb' 8 8)) ∧
    (let s := { aimed 0 with ixl := 0x10, ixh := 0x01, sp := 0xFFFE, main := { RegSet.zero with b := 0x10, c := 0x10 } };
      ¬ StoreFaults s.mmu 0xFFFB s.ixl ∧ StoreFaults s.mmu 0xFFFC s.ixh ∧
      ¬ StoreFaults s.mmu (s.sp - 1) ((s.getQPair .bc).extractLsb' 8 8) ∧ StoreFaults s.mmu (s.sp - 2) ((s.getQPair .bc).extractLsb' 0 8)) ∧
    (let s := { aimed 0 with sp := 0x0000 };
      ¬ StoreFaults s.mmu 0xFFFF s.ixl ∧ ¬ StoreFaults s.mmu 0x0000 s.ixh ∧ ¬ StoreFaults s.mmu (s.sp - 1) 0xFF ∧
      ¬ StoreFaults s.mmu (s.sp - 2) 0xFF) := by
  unfold StoreFaults; decide

theorem witness_RegisterFileReadsBack : QPair.bc ≠ .af ∧ QPair.de ≠ .af ∧ QPair.hl ≠ .af := by decide

theorem witness_Exchanges :
    (let s := { aimed 0 with sp := 0xFFFC, main := { RegSet.zero with l := 0x10 } }; StoreFaults s.mmu s.sp s.main.l) ∧
    (let s := { aimed 0 with sp := 0xFFFB, main := { RegSet.zero with h := 0x10 } };
      ¬ StoreFaults s.mmu s.sp s.main.l ∧ StoreFaults s.mmu (s.sp + 1) s.main.h) ∧
    (let s := { aimed 0 with sp := 0xFFFF }; ¬ StoreFaults s.mmu s.sp s.main.l ∧ ¬ StoreFaults s.mmu (s.sp + 1) s.main.h) := by
  unfold StoreFaults; decide

/-- A byte at 0xFFFC, which HL and the index registers address. -/
def aimedAt (v : Byte) : State := holding (aimed 0) [(0xFFFC, v)]

theorem witness_BlockTransfers :
    StoreFaults (aimedAt 0x10).mmu (aimedAt 0x10).de ((aimedAt 0x10).read (aimedAt 0x10).hl) ∧
    ¬ StoreFaults (aimedAt 0x04).mmu (aimedAt 0x04).de ((aimedAt 0x04).read (aimedAt 0x04).hl) := by
  unfold StoreFaults; decide

theorem witness_ByteIncrementsAndDecrements :
    StoreFaults (aimedAt 0x0F).mmu (aimedAt 0x0F).hl ((aimedAt 0x0F).read (aimedAt 0x0F).hl + 1) ∧
    ¬ StoreFaults (aimedAt 0x0B).mmu (aimedAt 0x0B).hl ((aimedAt 0x0B).read (aimedAt 0x0B).hl + 1) := by
  unfold StoreFaults; decide

theorem witness_MemoryRotates :
    StoreFaults (aimedAt 0x08).mmu (indexed (aimedAt 0x08) .ix 0) (BitVec.ofNat 8 (rotated .rlc 0x08 0)) ∧
    ¬ StoreFaults (aimedAt 0x02).mmu (indexed (aimedAt 0x02) .ix 0) (BitVec.ofNat 8 (rotated .rlc 0x02 0)) := by
  unfold StoreFaults; decide

theorem witness_DigitRotates :
    StoreFaults (aimedAt 0x01).mmu (aimedAt 0x01).hl 0x10 ∧ ¬ StoreFaults (aimedAt 0x00).mmu (aimedAt 0x00).hl 0x00 := by
  unfold StoreFaults; decide

theorem witness_BitSetsAndResets :
    StoreFaults (aimedAt 0x00).mmu (aimedAt 0x00).hl 0x10 ∧ ¬ StoreFaults (aimedAt 0x00).mmu (aimedAt 0x00).hl 0x08 := by
  unfold StoreFaults; decide

theorem witness_BlockInputs :
    StoreFaults (aimed 0).mmu (aimed 0).hl ((aimed 0).portRead (aimed 0).main.c).1 ∧
    ¬ StoreFaults State.reset.mmu State.reset.hl (State.reset.portRead State.reset.main.c).1 := by
  unfold StoreFaults; decide

theorem witness_DecimalAdjustIsDecimal :
    (0x99 : Byte).toNat % 16 ≤ 9 ∧ (0x99 : Byte).toNat / 16 ≤ 9 ∧ (0x00 : Byte).toNat % 16 ≤ 9 ∧ (0x00 : Byte).toNat / 16 ≤ 9 := by decide

theorem witness_CallsAndReturns :
    condHolds .z 0x40 = true ∧ condHolds .z 0x00 = false ∧
    (let s := { State.reset with sp := 0xFFFD, pc := 0x0FFD }; StoreFaults s.mmu (s.sp - 1) ((s.pc + 3).extractLsb' 8 8)) ∧
    (let s := { State.reset with sp := 0xFFFE, pc := 0x000D };
      ¬ StoreFaults s.mmu (s.sp - 1) ((s.pc + 3).extractLsb' 8 8) ∧ StoreFaults s.mmu (s.sp - 2) ((s.pc + 3).extractLsb' 0 8)) ∧
    ¬ StoreFaults atCall.mmu (atCall.sp - 1) ((atCall.pc + 3).extractLsb' 8 8) ∧
    ¬ StoreFaults atCall.mmu (atCall.sp - 2) ((atCall.pc + 3).extractLsb' 0 8) := by
  unfold StoreFaults; decide

theorem witness_DecodeInvertsEncode :
    (Instr.setBIndIxR 7 0x80 .a).wf = true ∧ encode (.setBIndIxR 7 0x80 .a) <+: [0xDD, 0xCB, 0x80, 0xFF] ∧
    (Instr.retnMirror 7).wf = true ∧ encode (.retnMirror 7) <+: [0xED, 0x7D, 0x00, 0xFF] := by decide

theorem witness_EncodeInvertsDecode :
    decode 0xFD 0xCB 0xFF 0x46 = .instr .fdcb (.bitBIndIy 0 0xFF) ∧ decode 0x00 0xFF 0xFF 0xFF = .instr .main .nop := by decide

theorem witness_UnsetEntries :
    edPopulated 0x77 = false ∧ edPopulated 0xA4 = false ∧ (0xFD : Byte) ∉ xyPopulated ∧ (0xDD : Byte) ∉ xyPopulated ∧
    decode 0xED 0x77 0 0 = .unset .ed 0x77 ∧ decode 0xDD 0xFD 0 0 = .unset .dd 0xFD ∧ decode 0xFD 0xDD 0 0 = .unset .fd 0xDD := by decide

/-- A state the next step of which runs the bytes `bs`. -/
def running (bs : List Byte) : State := State.reset.placeAtPc bs

theorem witness_StepRunsTheDecodedInstruction :
    (Running (running [0x3E, 0x05]) ∧ fetched (running [0x3E, 0x05]) = .instr .main (.ldRN .a 0x05)) ∧
    (Running (running [0xED, 0x4F]) ∧ fetched (running [0xED, 0x4F]) = .instr .ed .ldRA) ∧
    (Running (running [0xFD, 0x00]) ∧ fetched (running [0xFD, 0x00]) = .unset .fd 0x00) := by
  have h : ∀ bs, (running bs).schedule = [] → (running bs).pendingNmi = false → (running bs).pendingInt = false →
      (running bs).halted = false → Running (running bs) :=
    fun bs h1 h2 h3 h4 => ⟨h1, h2, fun e => Bool.noConfusion (h3.symm.trans e.1), h4⟩
  exact ⟨⟨h _ rfl rfl rfl rfl, by decide⟩, ⟨h _ rfl rfl rfl rfl, by decide⟩, ⟨h _ rfl rfl rfl rfl, by decide⟩⟩

theorem witness_TurnsOfTheAgents :
    ∀ t : Turn, ({ State.reset with schedule := [t, .driver] } : State).schedule = t :: [.driver] ∧ State.reset.schedule = [] :=
  fun _ => ⟨rfl, rfl⟩

/-- R17: a teardown discards the FIFO and the CPU's registers wholesale, and the next cartridge is in place. -/
theorem test_teardown :
    stepped { intState with
        schedule := [.teardown { ResetParams.named with rom := { cells := [(0, 0x76)], moreBanks := 5 }, mapper := .korean }, .mixer]
        psg := { Psg.reset with fifo := [{ byte := 0x9F, cycle := 0 }] }, freeDraws := 7 }
      (fun t => ((t.psg.fifo, t.pc, t.cycles, t.read 0), (t.mmu.bankCount, t.mmu.mapper, t.schedule, t.freeDraws))) =
      some (([], 0x0000, 0, 0x76), (8, .korean, [.mixer], 7)) := rfl

/-- R17: the host takes the oldest samples and the frame. -/
theorem test_taken :
    stepped { State.reset with schedule := [.takeSamples 2], outputs := { screen := [], frameDone := true, audio := [0, 1, -1] } }
      (fun t => (t.outputs.audio, t.outputs.frameDone)) = some ([-1], true) ∧
    stepped { State.reset with schedule := [.takeFrame], outputs := { screen := [], frameDone := true, audio := [0] } }
      (fun t => (t.outputs.audio, t.outputs.frameDone)) = some ([0], false) := by decide

theorem witness_NmiAcceptance :
    nmiState.pendingNmi = true ∧ ¬ StoreFaults nmiState.mmu (nmiState.sp - 1) (nmiState.pc.extractLsb' 8 8) ∧
    ¬ StoreFaults nmiState.mmu (nmiState.sp - 2) (nmiState.pc.extractLsb' 0 8) ∧
    (let s := { nmiState with sp := 0xFFFD }; StoreFaults s.mmu (s.sp - 1) (s.pc.extractLsb' 8 8)) ∧
    (let s := { nmiState with sp := 0xFFFE, pc := 0x1210 };
      ¬ StoreFaults s.mmu (s.sp - 1) (s.pc.extractLsb' 8 8) ∧ StoreFaults s.mmu (s.sp - 2) (s.pc.extractLsb' 0 8)) := by
  unfold StoreFaults; decide

theorem witness_IntAcceptance :
    (intState.pendingNmi = false ∧ IntReady intState ∧ ({ intState with im := .im2 } : State).im = .im2) ∧
    ¬ StoreFaults intState.mmu (intState.sp - 1) (intState.pc.extractLsb' 8 8) ∧
    ¬ StoreFaults intState.mmu (intState.sp - 2) (intState.pc.extractLsb' 0 8) ∧
    (let s := { intState with sp := 0xFFFD }; IntReady s ∧ StoreFaults s.mmu (s.sp - 1) (s.pc.extractLsb' 8 8)) ∧
    (let s := { intState with sp := 0xFFFE, pc := 0x1210 };
      IntReady s ∧ ¬ StoreFaults s.mmu (s.sp - 1) (s.pc.extractLsb' 8 8) ∧ StoreFaults s.mmu (s.sp - 2) (s.pc.extractLsb' 0 8)) := by
  unfold IntReady StoreFaults; decide

theorem witness_HaltedCpuIdles :
    let s := { State.reset with halted := true, pendingInt := true }
    s.halted = true ∧ s.pendingNmi = false ∧ ¬ IntReady s ∧ s.iff1 = false ∧ s.schedule = [] := by
  unfold IntReady; decide

theorem witness_StepOutcomes :
    (∃ t, (running [0x00]).cpuStep = .next t) ∧ (∃ t, exec .ldir State.reset = .next t) ∧ step (running [0xED, 0x00]) = .fault (.unimplementedOpcode .ed 0x00) ∧
    step ((aimed 0x10).placeAtPc [0x77]) = .fault (.unsupportedMapperControl 0x10) :=
  ⟨⟨_, rfl⟩, ⟨_, rfl⟩, rfl, rfl⟩

theorem witness_RefreshRegister :
    (∃ t, nmiState.cpuStep = .next t) ∧ (∃ t, intState.cpuStep = .next t ∧ IntReady intState) ∧
    (∃ t, ({ State.reset with halted := true } : State).cpuStep = .next t) ∧
    (∃ t, (running [0xED, 0x4F]).cpuStep = .next t ∧ fetched (running [0xED, 0x4F]) = .instr .ed .ldRA) ∧
    (∃ t, (running [0x00]).cpuStep = .next t ∧ fetched (running [0x00]) = .instr .main .nop) :=
  ⟨⟨_, rfl⟩, ⟨_, rfl, rfl, rfl, rfl⟩, ⟨_, rfl⟩, ⟨_, rfl, rfl⟩, ⟨_, rfl, rfl⟩⟩

theorem witness_ProgramCounterAdvances :
    (∃ t, exec (.jrCE 5) State.reset = .next t) ∧ transfers (.jrCE 5) State.reset = false ∧ repeats (.jrCE 5) State.reset = false ∧
    (∃ t, exec .ldir State.reset = .next t) ∧ repeats .ldir State.reset = true ∧ transfers (.djnzE 5) State.reset = true ∧
    repeats .otir { State.reset with main := { RegSet.zero with b := 1 } } = false :=
  ⟨⟨_, rfl⟩, rfl, rfl, ⟨_, rfl⟩, rfl, rfl, rfl⟩

/-- A state with something in every memory, a PSG event, and a rendered line. -/
def busy : State :=
  { lastLine with
    cycles := 500
    mmu := { lastLine.mmu with
      rom := { cells := [(0x0100, 0x3E), (0xBFFF, 0x01)], moreBanks := 0 }, sysRam := [(0x1FFF, 0x02)], cartRam := [(0x7FFF, 0x03)], ramEnable := true, ramBank := true }
    vdp := { lastLine.vdp with vram := [(0x3FFF, 0x04)], cram := [(0x1F, 0x05)], status := 0x60 }
    psg := { Psg.reset with fifo := [{ byte := 0x9F, cycle := 400 }, { byte := 0x00, cycle := 500 }] }
    outputs := { State.reset.outputs with screen := [(0, List.replicate 256 { r := 0, g := 0, b := 0, a := 255 })] } }

theorem busy_vdpOk : VdpOk busy.vdp := by
  refine ⟨?_, ?_, by decide, by decide, rfl, by decide⟩ <;> unfold MemoryOk <;> decide

theorem busy_inv : Inv busy := by
  refine ⟨⟨by decide, ?_, ?_, ?_, by decide, ?_, ?_⟩, busy_vdpOk, ⟨by decide, by decide⟩, ⟨by decide, ?_⟩⟩
  · unfold MemoryOk; decide
  · unfold MemoryOk; decide
  · unfold MemoryOk; decide
  · exact fun h => absurd rfl h
  · exact fun h => nomatch h
  · intro l h
    obtain rfl := List.mem_singleton.1 h
    exact ⟨by decide, List.length_replicate⟩

theorem witness_InvariantIsKept :
    Inv busy ∧ (∃ t, step { busy with schedule := [.mixer] } = .next t) ∧ (∃ t, step { busy with schedule := [.raiseNmi] } = .next t) ∧
    ∃ t, step busy = .next t :=
  ⟨busy_inv, ⟨_, rfl⟩, ⟨_, rfl⟩, ⟨_, rfl⟩⟩

theorem witness_InvariantAtReset :
    let p := { ResetParams.named with
      rom := { cells := [(0xC000, 0x05), (0xBFFF, 0x01)], moreBanks := 0 }, sysRam := [(0x1FFF, 0x02)], vram := [(0x3FFF, 0x04)] }
    (State.resetWith p).mmu.rom.cells = [(0xBFFF, 0x01)] ∧ (State.resetWith p).mmu.bankCount = 3 := by decide

/-- The last cell of each memory, and a ROM of three banks and one of eight, meet the hypotheses. -/
theorem witness_ResetState :
    MemoryOk [(0xBFFF, 0x01)] ({ cells := [], moreBanks := 0 } : Rom).length ∧ MemoryOk [(0x1FFFF, 0x01)] ({ cells := [], moreBanks := 5 } : Rom).length ∧
    MemoryOk [(0x1FFF, 0x02)] 0x2000 ∧ MemoryOk [(0x7FFF, 0x02)] 0x8000 ∧ MemoryOk [(0x3FFF, 0x04)] 0x4000 ∧ MemoryOk [(0x1F, 0x05)] 0x20 := by
  unfold MemoryOk; decide

/-- An `exec` of each kind the two statements speak of, with the change it makes. -/
theorem witness_NoInstructionChanges :
    (∃ t, exec (.outPortNA 0x7F) State.reset = .next t ∧ t.psg.fifo.length = 1) ∧
    (∃ t, exec (.inAPortN 0xBF) intState = .next t ∧ t.pendingInt = false) ∧ (∃ t, exec .di intState = .next t ∧ t.pendingInt = true) :=
  ⟨⟨_, rfl, rfl⟩, ⟨_, rfl, rfl⟩, ⟨_, rfl, rfl⟩⟩

theorem witness_ControlStateWriters :
    (∃ t, exec .ldIA (aimed 1) = .next t ∧ t.i ≠ (aimed 1).i) ∧ (∃ t, exec .ldRA (aimed 1) = .next t ∧ t.r ≠ (aimed 1).r) ∧
    (∃ t, exec .ei State.reset = .next t ∧ t.iff1 ≠ State.reset.iff1 ∧ t.iff2 ≠ State.reset.iff2 ∧ t.postEi ≠ State.reset.postEi) ∧
    (∃ t, exec .retn { State.reset with iff2 := true } = .next t ∧ t.iff1 = true) ∧
    (∃ t, exec .im2Mirror State.reset = .next t ∧ t.im ≠ State.reset.im) ∧
    (∃ t, exec .halt State.reset = .next t ∧ t.halted ≠ State.reset.halted) ∧
    (∃ t, exec .exx (aimed 1) = .next t ∧ t.shadow ≠ (aimed 1).shadow) := by
  refine ⟨⟨_, rfl, ?_⟩, ⟨_, rfl, ?_⟩, ⟨_, rfl, ?_⟩, ⟨_, rfl, rfl⟩, ⟨_, rfl, ?_⟩, ⟨_, rfl, ?_⟩, ⟨_, rfl, ?_⟩⟩ <;> decide

/-- The ends of the address ranges. -/
theorem witness_MemoryMap :
    (0x03FF : Word).toNat ≤ 0x03FF ∧ (0x0400 : Word).toNat = 0x0400 ∧ (0x3FFF : Word).toNat ≤ 0x3FFF ∧ (0x4000 : Word).toNat = 0x4000 ∧
    (0x7FFF : Word).toNat ≤ 0x7FFF ∧ (0x8000 : Word).toNat = 0x8000 ∧ (0xBFFF : Word).toNat ≤ 0xBFFF ∧ (0xC000 : Word).toNat = 0xC000 ∧
    busy.mmu.ramEnable = true ∧ State.reset.mmu.ramEnable = false := by decide

theorem witness_SlotBinding :
    (0x07 : Byte).toNat % State.reset.mmu.bankCount = (0x01 : Byte).toNat % State.reset.mmu.bankCount ∧
    (0x0400 : Word).toNat < 0x4000 ∧ (0x7FFF : Word).toNat < 0x8000 ∧ (0xBFFF : Word).toNat < 0xC000 ∧ State.reset.mmu.ramEnable = false ∧
    (0x03FF : Word).toNat < 0x0400 := by decide

theorem witness_ControlByteRomStoresAndMirror :
    State.reset.mmu.mapper = .sega ∧ ((0x10 : Byte).getLsbD 4 || (0x10 : Byte).getLsbD 1 || (0x10 : Byte).getLsbD 0) = true ∧
    ((0xEC : Byte).getLsbD 4 || (0xEC : Byte).getLsbD 1 || (0xEC : Byte).getLsbD 0) = false ∧ (under .korean).mmu.mapper ≠ .sega ∧
    (0xBFFF : Word).toNat < 0xC000 ∧ State.reset.mmu.ramEnable = false ∧ slotRegister State.reset.mmu 0xBFFF = none ∧
    slotRegister (under .korean).mmu 0x8000 = none ∧ slotRegister (under .codemasters).mmu 0x0001 = none ∧
    (0xDFFF : Word).toNat < 0xE000 ∧ (∃ t, busy.write 0xDFFF 0x08 = .next t) ∧ (∃ t, busy.write (0xDFFF + 0x2000) 0x08 = .next t) := by
  refine ⟨by decide, by decide, by decide, by decide, by decide, by decide, by decide, by decide, by decide, by decide, ⟨_, rfl⟩, ⟨_, rfl⟩⟩

/-- The ends of the port ranges. -/
theorem witness_PortMap :
    (0x3F : Byte).toNat < 0x40 ∧ (0x40 : Byte).toNat = 0x40 ∧ (0x7F : Byte).toNat < 0x80 ∧ (0x80 : Byte).toNat = 0x80 ∧
    (0xBE : Byte).toNat % 2 = 0 ∧ (0xBF : Byte).toNat % 2 = 1 ∧ (0xBF : Byte).toNat < 0xC0 ∧ (0xC0 : Byte).toNat = 0xC0 := by decide

theorem witness_VdpPorts :
    State.reset.vdp.pending = false ∧ (0x3F : Byte).toNat / 64 = 0 ∧ (0x40 : Byte).toNat / 64 = 1 ∧ (0x7F : Byte).toNat / 64 = 1 ∧
    (0x80 : Byte).toNat / 64 = 2 ∧ (0xBF : Byte).toNat / 64 = 2 ∧ (0xC0 : Byte).toNat / 64 = 3 ∧ State.reset.vdp.mode = .vram ∧
    ({ State.reset.vdp with mode := .cram } : Vdp).mode = .cram := by decide

/-- R48, R139, R142: entries as rows of spec/opcode_table.json have them, and an unset one. -/
theorem test_entries :
    OpTable.entry .main 0xC4 = some ⟨"CALL cc,nn", 10, some 17, 2, false⟩ ∧ OpTable.entry .ddcb 0x30 = some ⟨"SLL (IX+d),r", 23, none, 1, true⟩ ∧
    OpTable.entry .ed 0xB0 = some ⟨"LDIR", 16, some 21, 0, false⟩ ∧ OpTable.entry .fd 0x36 = some ⟨"LD (IY+d),n", 19, none, 2, false⟩ ∧
    OpTable.entry .cb 0xCB = some ⟨"SET b,r", 8, none, 0, false⟩ ∧ OpTable.entry .ed 0x00 = none ∧ OpTable.entry .main 0xDD = none := by decide

/-- R489, R143, R145: the mnemonics of 3E 05, of DD 36 FB 99 and of DD 6C, and the length and mark of the unset ED 00. -/
theorem test_decodeAt :
    ((running [0x3E, 0x05]).decodeAt 0).mnemonic = "LD A,0x05" ∧ ((running [0xDD, 0x36, 0xFB, 0x99]).decodeAt 0).mnemonic = "LD (IX-0x05),0x99" ∧
    ((running [0xDD, 0x6C]).decodeAt 0).mnemonic = "LD IXL,IXH" ∧
    ((running [0xED, 0x00]).decodeAt 0) =
      { length := 2, bytes := [0xED, 0x00], mnemonic := "unset entry", template := none, instr := none } := by decide

/-- R489, R128, R417: words, conditions, displacements, restarts, bit numbers and what stays as it is. -/
theorem test_mnemonics :
    ((running [0xCA, 0x34, 0x12]).decodeAt 0).mnemonic = "JP Z,0x1234" ∧ ((running [0x18, 0x80]).decodeAt 0).mnemonic = "JR -0x80" ∧
    ((running [0xFF]).decodeAt 0).mnemonic = "RST 0x38" ∧ ((running [0xFD, 0xCB, 0x7F, 0xDE]).decodeAt 0).mnemonic = "SET 3,(IY+0x7F)" ∧
    ((running [0x08]).decodeAt 0).mnemonic = "EX AF,AF'" := by decide

/-- The operand words of a template, in order. -/
def operandWords (w : List Char) : List Char → List String
  | [] => if w = [] then [] else [String.ofList w]
  | c :: cs =>
    if inOperandWord c then operandWords (w ++ [c]) cs
    else (if w = [] then [] else [String.ofList w]) ++ operandWords [] cs

/-- Every operand word of the template is replaced, but for the apostrophe of AF' and the two remarks of the second encodings; every operand has
its word in the template. -/
def allSubstituted (i : Instr) : Bool :=
  let words := operandWords [] i.row.template.toList
  let names := i.operandTexts.map (·.1)
  words.all (fun w => names.contains w || ["'", "mirror", "alias"].contains w) && names.all words.contains

theorem test_substituted_main : (mainWords1 ++ mainWords2 ++ mainWords3 ++ mainWords4).all (fun w => allSubstituted w.2) = true := by decide

theorem test_substituted_cb : (cbWords).all (fun w => allSubstituted w.2) = true := by decide

theorem test_substituted_dd : (ddWords1 ++ ddWords2 ++ ddcbWords).all (fun w => allSubstituted w.2) = true := by decide

theorem test_substituted_fd : (fdWords1 ++ fdWords2 ++ fdcbWords).all (fun w => allSubstituted w.2) = true := by decide

theorem test_substituted_ed : (edWords1 ++ edWords2).all (fun w => allSubstituted w.2) = true := by decide

theorem witness_VdpPosition : VdpOk busy.vdp ∧ ({ busy with pendingInt := true } : State).pendingInt = true := ⟨busy_vdpOk, rfl⟩

theorem witness_InterruptEvents :
    lastLine.vdp.hCounter < 228 ∧ lastLine.vdp.line < 262 ∧ lastLine.vdp.hCounter + 0 < 228 ∧ 228 ≤ lastLine.vdp.hCounter + 1 ∧
    lastLine.vdp.hCounter + 228 < 456 := by decide

/-- Two sprites on line 1 at column 16 whose patterns have an opaque leftmost pixel. -/
def twoSprites : Vdp :=
  { State.reset.vdp with
    reg := ((State.reset.vdp.reg.set 0 0x04).set 1 0x40).set 5 0x7E
    vram := [(4, 0x80), (0x3F02, 0xD0), (0x3F80, 0x10), (0x3F82, 0x10)] }

/-- R544: they meet. -/
theorem test_spritesMeet : (twoSprites.sprites 2).collision = true ∧ SpritesMeet twoSprites 2 := by
  refine ⟨by decide, 0, by decide, 1, by decide, by decide, 16, by decide, ?_, ?_⟩
  · exact ⟨0, by decide, by decide, 0, by decide, by decide⟩
  · exact ⟨0, by decide, by decide, 0, by decide, by decide⟩

theorem witness_RenderedLines :
    let masked : State := { State.reset with vdp := { State.reset.vdp with reg := (State.reset.vdp.reg.set 0 0x24).set 1 0x40 } }
    State.reset.vdp.reg[1].getLsbD 6 = false ∧ State.reset.vdp.reg[0].getLsbD 2 = false ∧ masked.vdp.reg[1].getLsbD 6 = true ∧
    masked.vdp.reg[0].getLsbD 2 = true ∧ masked.vdp.reg[0].getLsbD 5 = true ∧ (190 : Nat) ≠ 191 := by decide

theorem witness_PsgByteProtocol :
    (0xE4 : Byte).getLsbD 7 = true ∧ (0xE4 : Byte).getLsbD 4 = false ∧ (0xE4 : Byte).toNat / 32 % 4 = 3 ∧
    (0x9F : Byte).getLsbD 4 = true ∧ (0x9F : Byte).toNat / 32 % 4 = 0 ∧ (0x05 : Byte).getLsbD 7 = false ∧
    Psg.reset.latchType ≠ .volume := by decide

theorem witness_SamplesAreNormalised : ∀ c : Fin 4, Psg.reset.mixOne.2.vol[c] = 0xF := by decide

end Sys2Proof.Tests
end

section
/-! SUPPORT. What a read of each address range answers (R73, R75), and what binding a mapper slot (R86) makes of it. -/

namespace Sys2Proof.Machine.Mmu

variable {m : Mmu} {a : Word}

theorem place_pinned (h : a.toNat < 0x0400) : m.place a = .rom a.toNat := by
  unfold place
  simp only [show a.toNat ≤ 0x03FF by omega, if_true]

theorem place_slot0 (h1 : 0x0400 ≤ a.toNat) (h2 : a.toNat < 0x4000) : m.place a = .rom (m.slot0 * 0x4000 + a.toNat) := by
  unfold place
  simp only [show ¬ a.toNat ≤ 0x03FF by omega, show a.toNat ≤ 0x3FFF by omega, if_false, if_true]

theorem place_slot1 (h1 : 0x4000 ≤ a.toNat) (h2 : a.toNat < 0x8000) :
    m.place a = .rom (m.slot1 * 0x4000 + (a.toNat - 0x4000)) := by
  unfold place
  simp only [show ¬ a.toNat ≤ 0x03FF by omega, show ¬ a.toNat ≤ 0x3FFF by omega, show a.toNat ≤ 0x7FFF by omega, if_false,
    if_true]

theorem read_pinned (h : a.toNat < 0x0400) : m.read a = m.rom.read a.toNat := by
  rw [read, place_pinned h, readPlace]

theorem read_slot0 (h1 : 0x0400 ≤ a.toNat) (h2 : a.toNat < 0x4000) :
    m.read a = m.rom.read (m.slot0 * 0x4000 + a.toNat) := by
  rw [read, place_slot0 h1 h2, readPlace]

theorem read_slot1 (h1 : 0x4000 ≤ a.toNat) (h2 : a.toNat < 0x8000) :
    m.read a = m.rom.read (m.slot1 * 0x4000 + (a.toNat - 0x4000)) := by
  rw [read, place_slot1 h1 h2, readPlace]

theorem read_slot2 (h1 : 0x8000 ≤ a.toNat) (h2 : a.toNat < 0xC000) (he : m.ramEnable = false) :
    m.read a = m.rom.read (m.slot2 * 0x4000 + (a.toNat - 0x8000)) := by
  rw [read, place_window h1 h2, he, if_neg Bool.false_ne_true, readPlace]

theorem read_cartRam (h1 : 0x8000 ≤ a.toNat) (h2 : a.toNat < 0xC000) (he : m.ramEnable = true) :
    m.read a = m.cartRam.read (m.ramBank.toNat * 0x4000 + (a.toNat - 0x8000)) := by
  rw [read, place_window h1 h2, if_pos he, readPlace]

theorem read_sysRam (h : 0xC000 ≤ a.toNat) : m.read a = m.sysRam.read (a.toNat % 0x2000) := by
  rw [read, place_high h, readPlace]

@[simp] theorem rom_setMapperSlot (m : Mmu) (k : Nat) (v : Byte) : (m.setMapperSlot k v).rom = m.rom := by
  unfold setMapperSlot
  split <;> rfl

@[simp] theorem slot0_setMapperSlot (m : Mmu) (v : Byte) : (m.setMapperSlot 0 v).slot0 = v.toNat % m.bankCount := rfl
@[simp] theorem slot1_setMapperSlot (m : Mmu) (v : Byte) : (m.setMapperSlot 1 v).slot1 = v.toNat % m.bankCount := rfl
@[simp] theorem slot2_setMapperSlot (m : Mmu) (v : Byte) : (m.setMapperSlot 2 v).slot2 = v.toNat % m.bankCount := rfl

/-- A binding leaves the RAM enable alone (R86). -/
@[simp] theorem ramEnable_setMapperSlot (m : Mmu) (k : Nat) (v : Byte) : (m.setMapperSlot k v).ramEnable = m.ramEnable := by
  unfold setMapperSlot
  split <;> rfl

/-- The bank a byte names exists (R86). -/
theorem mod_bankCount_lt (m : Mmu) (v : Byte) : v.toNat % m.bankCount < m.bankCount :=
  Nat.mod_lt _ (Nat.lt_of_lt_of_le (by decide) m.three_le_bankCount)

/-- A binding looks at its byte modulo the bank count alone (R86). -/
theorem setMapperSlot_congr {v w : Byte} (h : w.toNat % m.bankCount = v.toNat % m.bankCount) (k : Nat) :
    m.setMapperSlot k w = m.setMapperSlot k v := by
  simp only [setMapperSlot, h]

/-- The first 1 KiB is pinned: no binding shows there (R73, R86). -/
theorem read_setMapperSlot_pinned (k : Nat) (v : Byte) (h : a.toNat < 0x0400) : (m.setMapperSlot k v).read a = m.read a := by
  rw [read_pinned h, read_pinned h, rom_setMapperSlot]

end Sys2Proof.Machine.Mmu
end

section
/-! The statements of spec/20_memory.md settled. -/

namespace Sys2Proof.Proofs.Memory

open Sys2Proof.Machine

/-- Settles O49: each range by the read lemma of its window. -/
theorem memoryMap : Obligations.MemoryMap := by
  unfold Obligations.MemoryMap
  intro s a
  refine ⟨fun h => Mmu.read_pinned (Nat.lt_succ_of_le h), fun h1 h2 => Mmu.read_slot0 h1 (Nat.lt_succ_of_le h2),
    fun h1 h2 => Mmu.read_slot1 h1 (Nat.lt_succ_of_le h2), fun h1 h2 he => ?cartRam,
    fun h1 h2 he => Mmu.read_slot2 h1 (Nat.lt_succ_of_le h2) he, Mmu.read_sysRam, rfl⟩
  case cartRam =>
    have hbank : s.mmu.ramBank.toNat * 0x4000 = if s.mmu.ramBank then 0x4000 else 0 := by cases s.mmu.ramBank <;> rfl
    rw [State.read, Mmu.read_cartRam h1 (Nat.lt_succ_of_le h2) he, hbank]

/-- Settles O50: a binding is one field of the MMU, so the read lemma of its window shows the new bank. -/
theorem slotBinding : Obligations.SlotBinding := by
  unfold Obligations.SlotBinding
  intro m v w b
  refine ⟨rfl, rfl, rfl, m.mod_bankCount_lt v, Mmu.setMapperSlot_congr, fun h1 h2 => ?slot0, fun h1 h2 => ?slot1,
    fun h1 h2 he => ?slot2, Mmu.read_setMapperSlot_pinned 0 v⟩
  case slot0 => rw [Mmu.read_slot0 h1 h2, Mmu.rom_setMapperSlot, Mmu.slot0_setMapperSlot]
  case slot1 => rw [Mmu.read_slot1 h1 h2, Mmu.rom_setMapperSlot, Mmu.slot1_setMapperSlot]
  case slot2 => rw [Mmu.read_slot2 h1 h2 ((m.ramEnable_setMapperSlot 2 v).trans he), Mmu.rom_setMapperSlot, Mmu.slot2_setMapperSlot]

end Sys2Proof.Proofs.Memory
end

section
/-! SUPPORT. Where PC is after each of the operations that may turn: a branch that is not taken, and one iteration of a repeating block
instruction (R246, R250, R434, R441). From these, PC after every instruction (R418). -/

namespace Sys2Proof.Safety

open Sys2Proof.Machine

/-- A store that is followed by a next state changes the MMU alone. -/
theorem StoresByte.eq_of_next {o : Result} {m : Mmu} {a : Word} {v : Byte} {s t : State} (h : StoresByte o m a v s)
    (ho : o = .next t) : ∃ n, t = { s with mmu := n } := by
  obtain ⟨hfault, hstore⟩ := h
  by_cases f : StoreFaults m a v
  · cases (hfault f).symm.trans ho
  · obtain ⟨n, _, hn⟩ := hstore f
    cases hn.symm.trans ho
    exact ⟨n, rfl⟩

end Sys2Proof.Safety

namespace Sys2Proof.Machine

open Sys2Proof.Safety

/-- A counter is 0 after its decrement exactly when it was 1. -/
theorem sub_one_bne_zero {w : Nat} (x : BitVec w) : (x - 1 != 0) = (x != 1) := by
  rw [Bool.eq_iff_iff, bne_iff_ne, bne_iff_ne, Ne, sub_eq_zero]

/-- The Z flag of a block search is set exactly on a match (R249). -/
theorem flagZ_blockSearchFlags (a v : Byte) (bc : Word) (f : Byte) :
    flagZ (blockSearchFlags a v bc f) = (a == v) := by
  rw [blockSearchFlags, flagZ_packFlags, Bool.eq_iff_iff, beq_iff_eq, beq_iff_eq, sub_eq_zero]

/-- A branch that is not taken goes on to the next instruction. -/
theorem pc_of_not_taken {c : Bool} {o : Result} {s t : State} {len n : Nat}
    (h : (if c then o else .next (s.done len n)) = .next t) (hc : c = false) : t.pc = s.pc + BitVec.ofNat 16 len := by
  subst hc
  cases h
  rfl

namespace State

variable {s t : State} {step : Word}

theorem pc_repeatIf (s : State) (again : Bool) : (s.repeatIf again).pc = if again then s.pc else s.pc + 2 := by
  cases again <;> rfl

/-- An iteration of a block transfer leaves PC alone and decrements BC (R245, R247). -/
theorem blockMove_next (h : s.blockMove step = .next t) : t.pc = s.pc ∧ t.bc = s.bc - 1 := by
  obtain ⟨n, rfl⟩ := (s.blockMove_spec step).eq_of_next h
  exact ⟨rfl, s.bc_transferred step _⟩

/-- An iteration of a block input leaves PC alone and decrements B (R433, R435). -/
theorem blockIn_next (h : s.blockIn step = .next t) : t.pc = s.pc ∧ t.main.b = s.main.b - 1 := by
  obtain ⟨n, rfl⟩ := (s.blockIn_spec step).eq_of_next h
  exact ⟨(s.portRead_same s.main.c).pc, congrArg (·.b - 1) (s.portRead_main s.main.c)⟩

theorem b_blockOut (s : State) (step : Word) : (s.blockOut step).main.b = s.main.b - 1 := by
  rw [blockOut_spec, b_counted, portWrite_main]

/-- A block search sets Z exactly on a match (R249, R251). -/
theorem flagZ_blockSearch (s : State) (step : Word) : flagZ (s.blockSearch step).main.f = (s.main.a == s.read s.hl) := by
  rw [blockSearch_spec]
  exact flagZ_blockSearchFlags ..

theorem pc_blockMove_repeatIf (h : andThen (s.blockMove step) (fun u => .next (u.repeatIf (u.bc != 0))) = .next t) :
    t.pc = if s.bc != 1 then s.pc else s.pc + 2 := by
  obtain ⟨u, hu, h⟩ := andThen_eq_next h
  obtain ⟨hpc, hbc⟩ := blockMove_next hu
  cases h
  rw [pc_repeatIf, hpc, hbc, sub_one_bne_zero]

theorem pc_blockIn_repeatIf (h : andThen (s.blockIn step) (fun u => .next (u.repeatIf (u.main.b != 0))) = .next t) :
    t.pc = if s.main.b != 1 then s.pc else s.pc + 2 := by
  obtain ⟨u, hu, h⟩ := andThen_eq_next h
  obtain ⟨hpc, hb⟩ := blockIn_next hu
  cases h
  rw [pc_repeatIf, hpc, hb, sub_one_bne_zero]

theorem pc_blockSearch_repeatIf (s : State) (step : Word) :
    ((s.blockSearch step).repeatIf ((s.blockSearch step).bc != 0 && !flagZ (s.blockSearch step).main.f)).pc =
      if s.bc != 1 && s.main.a != s.read s.hl then s.pc else s.pc + 2 := by
  have hbc : (s.blockSearch step).bc = s.bc - 1 := by rw [blockSearch_spec, bc_searched]
  rw [pc_repeatIf, (s.blockSearch_same step).pc, hbc, flagZ_blockSearch, sub_one_bne_zero]
  rfl

theorem pc_blockOut_repeatIf (s : State) (step : Word) :
    ((s.blockOut step).repeatIf ((s.blockOut step).main.b != 0)).pc = if s.main.b != 1 then s.pc else s.pc + 2 := by
  rw [pc_repeatIf, (s.blockOut_same step).pc, b_blockOut, sub_one_bne_zero]

end State

/-! ### The instructions that may turn -/

/-- The repeating block instructions (R246, R248, R250, R252, R434, R436, R441, R443). -/
def isRepeating : Instr → Bool
  | .ldir | .lddr | .cpir | .cpdr | .inir | .indr | .otir | .otdr => true
  | _ => false

theorem isRepeating_of_repeats {i : Instr} {s : State} (h : repeats i s = true) : isRepeating i = true := by
  unfold repeats at h
  split at h
  case h_9 => cases h
  all_goals rfl

section
variable {i : Instr} {s t : State}

/-- One iteration of a repeating block instruction stays where it is exactly when it `repeats`. -/
theorem exec_pc_of_isRepeating (h : exec i s = .next t) (hi : isRepeating i = true) :
    t.pc = if repeats i s then s.pc else s.pc + 2 := by
  cases i with
  | ldir | lddr => exact State.pc_blockMove_repeatIf h
  | cpir | cpdr => cases h; exact s.pc_blockSearch_repeatIf _
  | inir | indr => exact State.pc_blockIn_repeatIf h
  | otir | otdr => cases h; exact s.pc_blockOut_repeatIf _
  | _ => cases hi

/-- The first half of R418: only a transfer of control or an iteration that repeats keeps PC from the next instruction. -/
theorem exec_pc_of_goes_on (h : exec i s = .next t) (ht : transfers i s = false) (hr : repeats i s = false) :
    t.pc = s.pc + BitVec.ofNat 16 i.length := by
  cases i with
  | jpNn | jrE | jpHl | jpIx | jpIy | callNn | ret | reti | retn | retnMirror | rstP => cases ht
  | jpCcNn | callCcNn | retCc | jrCE | jrNcE | jrZE | jrNzE => exact pc_of_not_taken h ht
  | djnzE => exact pc_of_not_taken (s := s.setR .b (s.main.b - 1)) h ((sub_one_bne_zero s.main.b).trans ht)
  | ldir | lddr | cpir | cpdr | inir | indr | otir | otdr => rw [exec_pc_of_isRepeating h rfl, hr]; rfl
  | _ => exact (exec_next h).pc rfl

end

end Sys2Proof.Machine
end

section
/-! The statements of spec/48_jump_call.md settled. -/

namespace Sys2Proof.Proofs.Jump

open Sys2Proof.Machine

/-- Settles O26: the conditions come in pairs, the flag clear and the flag set. -/
theorem conditionCodes : Obligations.ConditionCodes := by
  unfold Obligations.ConditionCodes
  intro f
  have clear (b : Bool) : (!b) = true ↔ b = false := iff_of_eq (Bool.not_eq_true' b)
  exact ⟨clear _, .rfl, clear _, .rfl, clear _, .rfl, clear _, .rfl⟩

/-- Settles O43: PC goes on unless the instruction turns, and an iteration that repeats keeps it. -/
theorem programCounterAdvances : Obligations.ProgramCounterAdvances := by
  unfold Obligations.ProgramCounterAdvances
  intro i s t h
  refine ⟨exec_pc_of_goes_on h, fun hr => ?_⟩
  rw [exec_pc_of_isRepeating h (isRepeating_of_repeats hr), if_pos hr]

end Sys2Proof.Proofs.Jump
end

section
/-! SUPPORT. The opcode tables entry by entry: an entry fixes the length, the well-formedness and the row of the instructions it stands for,
and these carry their operand bytes as they came (R121, R124, R142). -/

namespace Sys2Proof.Proofs.Encoding

open Sys2Proof.Safety

/-- The longest instruction at entry `op` of a table, with `x` and `y` as `OpTable.instrAt` has them (R121). -/
def layout (t : OpTable) (op x y : Byte) : List Byte :=
  match t with
  | .main => [op, x, y]
  | .cb => [0xCB, op]
  | .ed => [0xED, op, x, y]
  | .dd => [0xDD, op, x, y]
  | .fd => [0xFD, op, x, y]
  | .ddcb => [0xDD, 0xCB, x, op]
  | .fdcb => [0xFD, 0xCB, x, op]

/-- What an instruction at an entry of the table is known by: its bytes, its well-formedness, its entry. -/
def known (t : OpTable) (i : Instr) : List Byte × Bool × OpEntry := (encode i, i.wf, i.entry t)

/-- What an entry says of its instruction with the operand bytes `x` and `y`. -/
def expected (t : OpTable) (op x y : Byte) (e : OpEntry) : List Byte × Bool × OpEntry :=
  ((layout t op x y).take (t.prefixBytes + 1 + e.operandBytes), true, e)

/-- Entry `op` of the table, with operand bytes that are the halves of `w`, is as the table has it. -/
def EntryHolds (t : OpTable) (w : Word) (op : Byte) : Prop :=
  (t.instrAt op (loByte w) (hiByte w)).map (known t) = (t.entry op).map (expected t op (loByte w) (hiByte w))

/-- A property of all opcode bytes is one of 256 numbers. -/
theorem forall_opcode {P : Byte → Prop} (h : ∀ k < 256, P (BitVec.ofNat 8 k)) (op : Byte) : P op := by
  have := h op.toNat op.isLt
  rwa [BitVec.ofNat_toNat, BitVec.setWidth_eq] at this

section
variable (w : Word)

theorem main_entryHolds : ∀ op, EntryHolds .main w op := by
  refine forall_opcode fun k hk => ?_
  simp only [EntryHolds, OpTable.instrAt, decodeMain, wordOf_hiByte_loByte]
  interval_cases k <;> rfl

theorem cb_entryHolds : ∀ op, EntryHolds .cb w op := by
  refine forall_opcode fun k hk => ?_
  interval_cases k <;> rfl

theorem ed_entryHolds : ∀ op, EntryHolds .ed w op := by
  refine forall_opcode fun k hk => ?_
  simp only [EntryHolds, OpTable.instrAt, decodeED, wordOf_hiByte_loByte]
  interval_cases k <;> rfl

theorem dd_entryHolds : ∀ op, EntryHolds .dd w op := by
  refine forall_opcode fun k hk => ?_
  simp only [EntryHolds, OpTable.instrAt, decodeDD, wordOf_hiByte_loByte]
  interval_cases k <;> rfl

theorem fd_entryHolds : ∀ op, EntryHolds .fd w op := by
  refine forall_opcode fun k hk => ?_
  simp only [EntryHolds, OpTable.instrAt, decodeFD, wordOf_hiByte_loByte]
  interval_cases k <;> rfl

theorem ddcb_entryHolds : ∀ op, EntryHolds .ddcb w op := by
  refine forall_opcode fun k hk => ?_
  interval_cases k <;> rfl

theorem fdcb_entryHolds : ∀ op, EntryHolds .fdcb w op := by
  refine forall_opcode fun k hk => ?_
  interval_cases k <;> rfl

end

/-- Every entry of every table, whatever the operand bytes. -/
theorem instrAt_known (t : OpTable) (op x y : Byte) : (t.instrAt op x y).map (known t) = (t.entry op).map (expected t op x y) := by
  have h : EntryHolds t (wordOf y x) op := by
    cases t
    exacts [main_entryHolds .., cb_entryHolds .., ed_entryHolds .., dd_entryHolds .., fd_entryHolds .., ddcb_entryHolds ..,
      fdcb_entryHolds ..]
  simpa only [EntryHolds, loByte_wordOf, hiByte_wordOf] using h

end Sys2Proof.Proofs.Encoding
end

section
/-! The statements of spec/30_encoding.md settled: O32 by the lemma of each constructor, the others by the entries of the tables. -/

namespace Sys2Proof.Laws.DecodeEncode

/-- Every constructor's lemma, in the order of `Instr`. -/
theorem statement (i : Instr) : Statement i :=
  Instr.casesOn (motive := Statement) i
    nop exAfAf djnzE jrE jrNzE jrZE jrNcE jrCE ldDdNn addHlSs ldIndBcA ldAIndBc ldIndDeA ldAIndDe ldIndNnHl ldHlIndNn ldIndNnA
    ldAIndNn incSs decSs incR incIndHl decR decIndHl ldRN ldIndHlN rlca rrca rla rra daa cpl scf ccf ldRR ldRIndHl ldIndHlR halt
    addAR addAIndHl addAN adcAR adcAIndHl adcAN subR subIndHl subN sbcAR sbcAIndHl sbcAN andR andIndHl andN xorR xorIndHl xorN orR
    orIndHl orN cpR cpIndHl cpN retCc popQq ret exx jpHl ldSpHl jpCcNn jpNn outPortNA inAPortN exIndSpHl exDeHl di ei callCcNn
    pushQq callNn rstP rlcR rlcIndHl rrcR rrcIndHl rlR rlIndHl rrR rrIndHl slaR slaIndHl sraR sraIndHl sllR sllIndHl srlR srlIndHl
    bitBR bitBIndHl resBR resBIndHl setBR setBIndHl addIxPp ldIxNn ldIndNnIx incIx ldIxIndNn decIx incIxHalf decIxHalf ldIxHalfN
    incIndIx decIndIx ldIndIxN ldRIndIx ldIndIxR ldIxHalfS ldRIxHalf addAIndIx addAIxHalf adcAIndIx adcAIxHalf subIndIx subIxHalf
    sbcAIndIx sbcAIxHalf andIndIx andIxHalf xorIndIx xorIxHalf orIndIx orIxHalf cpIndIx cpIxHalf popIx exIndSpIx pushIx jpIx ldSpIx
    rlcIndIx rlcIndIxR rrcIndIx rrcIndIxR rlIndIx rlIndIxR rrIndIx rrIndIxR slaIndIx slaIndIxR sraIndIx sraIndIxR sllIndIx sllIndIxR
    srlIndIx srlIndIxR bitBIndIx bitBIndIxAlias resBIndIx resBIndIxR setBIndIx setBIndIxR addIyPp ldIyNn ldIndNnIy incIy ldIyIndNn
    decIy incIyHalf decIyHalf ldIyHalfN incIndIy decIndIy ldIndIyN ldRIndIy ldIndIyR ldIyHalfS ldRIyHalf addAIndIy addAIyHalf
    adcAIndIy adcAIyHalf subIndIy subIyHalf sbcAIndIy sbcAIyHalf andIndIy andIyHalf xorIndIy xorIyHalf orIndIy orIyHalf cpIndIy
    cpIyHalf popIy exIndSpIy pushIy jpIy ldSpIy rlcIndIy rlcIndIyR rrcIndIy rrcIndIyR rlIndIy rlIndIyR rrIndIy rrIndIyR slaIndIy
    slaIndIyR sraIndIy sraIndIyR sllIndIy sllIndIyR srlIndIy srlIndIyR bitBIndIy bitBIndIyAlias resBIndIy resBIndIyR setBIndIy
    setBIndIyR inRPortC inPortC outPortCR outPortCZero sbcHlSs adcHlSs ldIndNnDd ldDdIndNn neg negMirror retn reti retnMirror im0
    im1 im2 im0Mirror im1Mirror im2Mirror ldIA ldRA ldAI ldAR rrd rld ldi cpi ini outi ldd cpd ind outd ldir cpir inir otir lddr
    cpdr indr otdr

end Sys2Proof.Laws.DecodeEncode

namespace Sys2Proof.Proofs.Encoding

open Sys2Proof.Safety

/-- The two bytes after the opcode byte; in the tables of double prefixes, the displacement is the first of the two after the prefixes. -/
def operandsAt (t : OpTable) (b1 b2 b3 : Byte) : Byte × Byte :=
  match t with
  | .main => (b1, b2)
  | _ => (b2, b3)

section
variable (b0 b1 b2 b3 : Byte)

/-- The decoder looks up the entry of the opcode byte in the table that the first bytes select (R121). -/
theorem decode_eq_ofEntry : decode b0 b1 b2 b3 =
    .ofEntry (tableAt b0 b1) (opcodeByte (tableAt b0 b1) b0 b1 b3)
      ((tableAt b0 b1).instrAt (opcodeByte (tableAt b0 b1) b0 b1 b3) (operandsAt (tableAt b0 b1) b1 b2 b3).1
        (operandsAt (tableAt b0 b1) b1 b2 b3).2) := by
  unfold decode tableAt
  repeat' split
  all_goals rfl

/-- The bytes of that entry are the bytes decoded (R121). -/
theorem layout_prefix : layout (tableAt b0 b1) (opcodeByte (tableAt b0 b1) b0 b1 b3) (operandsAt (tableAt b0 b1) b1 b2 b3).1
    (operandsAt (tableAt b0 b1) b1 b2 b3).2 <+: [b0, b1, b2, b3] := by
  unfold tableAt
  repeat' split
  all_goals simp_all [layout, opcodeByte, operandsAt]

end

section
variable {t : OpTable} {op b0 b1 b2 b3 : Byte} {i : Instr}

theorem ofEntry_eq_instr {t' : OpTable} {e : Option Instr} : Decoded.ofEntry t' op e = .instr t i ↔ t' = t ∧ e = some i := by
  cases e <;> simp [Decoded.ofEntry]

theorem ofEntry_eq_unset {t' : OpTable} {op' : Byte} {e : Option Instr} :
    Decoded.ofEntry t' op' e = .unset t op ↔ t' = t ∧ op' = op ∧ e = none := by
  cases e <;> simp [Decoded.ofEntry]

/-- Where an entry has an instruction, its bytes, its well-formedness and its entry. -/
theorem known_of_instrAt {x y : Byte} (h : t.instrAt op x y = some i) :
    ∃ e, t.entry op = some e ∧ known t i = expected t op x y e := by
  have hk := instrAt_known t op x y
  rw [h, Option.map_some, eq_comm, Option.map_eq_some_iff] at hk
  obtain ⟨e, he, hi⟩ := hk
  exact ⟨e, he, hi.symm⟩

/-- What decodes, by its table, its entry and its bytes. -/
theorem known_of_decode (h : decode b0 b1 b2 b3 = .instr t i) : t = tableAt b0 b1 ∧
    ∃ e x y, t.entry (opcodeByte t b0 b1 b3) = some e ∧ known t i = expected t (opcodeByte t b0 b1 b3) x y e ∧
      layout t (opcodeByte t b0 b1 b3) x y <+: [b0, b1, b2, b3] := by
  rw [decode_eq_ofEntry, ofEntry_eq_instr] at h
  obtain ⟨rfl, hi⟩ := h
  obtain ⟨e, he, hk⟩ := known_of_instrAt hi
  exact ⟨rfl, e, _, _, he, hk, layout_prefix ..⟩

/-- An entry is unset whatever the operand bytes. -/
theorem instrAt_eq_none_iff {x y : Byte} : t.instrAt op x y = none ↔ t.entry op = none := by
  rw [← Option.map_eq_none_iff, instrAt_known, Option.map_eq_none_iff]

end

/-- Every table's longest instruction counts the table-selecting byte and the opcode byte. -/
theorem prefixBytes_lt_layout (t : OpTable) (op x y : Byte) : t.prefixBytes < (layout t op x y).length := by
  cases t <;> simp [layout, OpTable.prefixBytes]

/-- Settles O32, by the lemma of each constructor. -/
theorem decodeInvertsEncode : Obligations.DecodeInvertsEncode := by
  unfold Obligations.DecodeInvertsEncode
  exact Laws.DecodeEncode.statement

/-- Settles O33: the bytes of an instruction are those of its entry with the operand bytes decoded. -/
theorem encodeInvertsDecode : Obligations.EncodeInvertsDecode := by
  unfold Obligations.EncodeInvertsDecode
  intro b0 b1 b2 b3 t i h
  obtain ⟨ht, e, x, y, -, hk, hl⟩ := known_of_decode h
  obtain ⟨hbytes, hwf, -⟩ : encode i = _ ∧ i.wf = true ∧ i.entry t = e := by simpa [known, expected] using hk
  have hp : encode i <+: [b0, b1, b2, b3] := hbytes ▸ (List.take_prefix ..).trans hl
  refine ⟨hwf, ht, hp, ?_, hp.length_le⟩
  have := prefixBytes_lt_layout t (opcodeByte t b0 b1 b3) x y
  rw [Instr.length, hbytes, List.length_take]
  omega

/-- The entries that are set, by the table's rule (R132 to R137). -/
def isSet : OpTable → Byte → Bool
  | .main, op => !([0xCB, 0xDD, 0xED, 0xFD].contains op)
  | .ed, op => edPopulated op
  | .dd, op | .fd, op => xyPopulated.contains op
  | .cb, _ | .ddcb, _ | .fdcb, _ => true

theorem entry_isSome (t : OpTable) : ∀ op : Byte, (t.entry op).isSome = isSet t op := by
  cases t <;> decide

theorem isSet_count (t : OpTable) : ((List.range 256).filter fun k => isSet t (BitVec.ofNat 8 k)).length = populatedCount t := by
  cases t <;> decide +kernel

theorem entry_undocumented (t : OpTable) : ∀ op : Byte, ∀ e ∈ t.entry op, e.undocumented = undocumentedAt t op := by
  cases t <;> decide

theorem entry_eq_none_iff {t : OpTable} {op : Byte} : t.entry op = none ↔ isSet t op = false := by
  rw [← entry_isSome, Option.isSome_eq_false_iff, Option.isNone_iff_eq_none]

/-- The opening bytes of each table (R121). -/
def Opens (b0 b1 : Byte) : OpTable → Prop
  | .main => [0xCB, 0xDD, 0xED, 0xFD].contains b0 = false
  | .cb => b0 = 0xCB
  | .ed => b0 = 0xED
  | .dd => b0 = 0xDD ∧ b1 ≠ 0xCB
  | .fd => b0 = 0xFD ∧ b1 ≠ 0xCB
  | .ddcb => b0 = 0xDD ∧ b1 = 0xCB
  | .fdcb => b0 = 0xFD ∧ b1 = 0xCB

theorem tableAt_eq_iff {b0 b1 : Byte} {t : OpTable} : tableAt b0 b1 = t ↔ Opens b0 b1 t := by
  unfold tableAt
  split_ifs <;> cases t <;> simp_all [Opens]

/-- What is rejected is an unset entry of the table that the first bytes select (R138). -/
theorem decode_eq_unset_iff {b0 b1 b2 b3 op : Byte} {t : OpTable} : decode b0 b1 b2 b3 = .unset t op ↔
    tableAt b0 b1 = t ∧ opcodeByte t b0 b1 b3 = op ∧ isSet t op = false := by
  rw [decode_eq_ofEntry, ofEntry_eq_unset, instrAt_eq_none_iff, entry_eq_none_iff]
  constructor <;> rintro ⟨rfl, rfl, h⟩ <;> exact ⟨rfl, rfl, h⟩

/-- Settles O35: the tables by their entries, the rejected sequences by the table their first bytes select. -/
theorem unsetEntries : Obligations.UnsetEntries := by
  unfold Obligations.UnsetEntries
  refine ⟨fun b0 b1 b2 b3 t op => ?rejected, isSet_count .ed, by decide, rfl, fun b0 b1 b2 b3 t i h => ?entry, fun t => ?count,
    fun t op e => entry_undocumented t op e⟩
  case rejected =>
    rw [decode_eq_unset_iff, tableAt_eq_iff]
    cases t <;> simp only [Opens, opcodeByte, isSet] <;> grind
  case entry =>
    obtain ⟨-, e, x, y, he, hk, -⟩ := known_of_decode h
    rw [he, show i.entry t = e from congrArg (·.2.2) hk]
  case count =>
    simp only [entry_isSome, isSet_count]

end Sys2Proof.Proofs.Encoding
end

section
/-! The invariant of the machine settled: it holds at reset (R580 to R584) and every turn of every agent keeps it. -/

namespace Sys2Proof.Safety

open Sys2Proof.Machine

theorem FifoOk.nil (n : Nat) : FifoOk [] n := ⟨.nil, fun _ he => nomatch he⟩

theorem ScreenOk.nil : ScreenOk [] := ⟨.nil, fun _ hl => nomatch hl⟩

theorem MmuOk.resetWith (p : ResetParams) : MmuOk (Mmu.resetWith p) where
  banks := Rom.three_le_bankCount _
  rom := .ofCells ..
  sysRam := .ofCells ..
  cartRam := .ofCells ..
  slots := by
    have : 3 ≤ (Mmu.resetWith p).bankCount := Rom.three_le_bankCount _
    have lt {n : Nat} (hn : n < 3) := Nat.lt_of_lt_of_le hn this
    exact ⟨lt (n := 0) (by decide), lt (n := 1) (by decide), lt (n := 2) (by decide)⟩
  noRam _ := ⟨rfl, rfl⟩
  korean _ := ⟨rfl, rfl⟩

theorem VdpOk.resetWith (vram cram : List Host.Cell) : VdpOk (Vdp.resetWith vram cram) where
  vram := .ofCells ..
  cram := .ofCells ..
  line := Nat.zero_lt_succ _
  hCounter := Nat.zero_lt_succ _
  vCounter := rfl
  status := BitVec.zero_and

/-- The invariant holds at reset. -/
theorem Inv.resetWith (p : ResetParams) : Inv (State.resetWith p) := ⟨.resetWith p, .resetWith .., .nil _, .nil⟩

/-- One turn of any agent keeps the invariant. -/
theorem Inv.takeTurn {s t : State} (h : Inv s) {turn : Turn} (ht : s.takeTurn turn = .next t) : Inv t := by
  cases turn with
  | driver =>
    obtain ⟨u, hu, rfl⟩ := driverTurn_next ht
    exact (h.stepRuns (cpuStep_next hu)).advance _
  | mixer =>
    cases ht
    obtain ⟨k, hk⟩ := mixOne_fifo s.psg
    exact ⟨h.mmu, h.vdp, hk ▸ h.fifo.drop k, h.screen⟩
  | teardown next =>
    cases ht
    obtain ⟨hm, hv, hf, hs⟩ := Inv.resetWith next
    exact ⟨hm, hv, hf, hs⟩
  | raiseNmi | setButtons | setJoypadB | takeFrame | takeSamples =>
    cases ht
    exact ⟨h.mmu, h.vdp, h.fifo, h.screen⟩

end Sys2Proof.Safety

namespace Sys2Proof.Machine

/-- Where no turn is listed, the step is the driver's (log entry 4). -/
theorem step_of_nil {s : State} (h : s.schedule = []) : step s = s.driverTurn := by
  rw [step, State.turn, h]

/-- Else it is the first turn listed. -/
theorem step_of_cons {s : State} {turn : Turn} {rest : List Turn} (h : s.schedule = turn :: rest) :
    step s = { s with schedule := rest }.takeTurn turn := by
  rw [step, State.turn, h]

end Sys2Proof.Machine

namespace Sys2Proof.Proofs.Invariant

open Sys2Proof.Machine Sys2Proof.Safety

/-- Settles O44: a step is one agent's turn, and each turn keeps the invariant. -/
theorem invariantIsKept : Obligations.InvariantIsKept := by
  unfold Obligations.InvariantIsKept
  intro s t h ht
  cases hs : s.schedule with
  | nil => exact h.takeTurn (turn := .driver) ((step_of_nil hs).symm.trans ht)
  | cons turn rest =>
    exact Inv.takeTurn (s := { s with schedule := rest }) ⟨h.mmu, h.vdp, h.fifo, h.screen⟩ ((step_of_cons hs).symm.trans ht)

/-- Settles O45: the memories are made canonical, and every other part of the invariant is a constant of reset. -/
theorem invariantAtReset : Obligations.InvariantAtReset := by
  unfold Obligations.InvariantAtReset
  exact ⟨Inv.resetWith, Inv.resetWith _⟩

end Sys2Proof.Proofs.Invariant
end

section
/-! SUPPORT. The head of a CPU step (R470, R473), one equation for each way it goes, and the refresh register in terms of integers (R39). -/

namespace Sys2Proof.Machine

open Sys2Proof.Safety

/-! ### The refresh register -/

/-- Bit 7 is kept and the other bits are replaced, as numbers. -/
theorem toNat_keepBit7 (r x : Byte) : ((r &&& 0x80) ||| (x &&& 0x7F)).toNat = r.toNat / 128 * 128 + x.toNat % 128 := by
  have hr : ∀ r : Byte, (r &&& 0x80 = 0 ∧ r.toNat / 128 = 0) ∨ (r &&& 0x80 = 0x80 ∧ r.toNat / 128 = 1) := by decide
  have hx : ∀ x : Byte, (0 ||| (x &&& 0x7F)).toNat = x.toNat % 128 ∧ (0x80 ||| (x &&& 0x7F)).toNat = 128 + x.toNat % 128 := by
    decide
  obtain ⟨h0, h1⟩ := hx x
  obtain ⟨e, n⟩ | ⟨e, n⟩ := hr r
  · rw [e, n, h0, Nat.zero_mul, Nat.zero_add]
  · rw [e, n, h1]

theorem toNat_refreshed (r : Byte) (k : Nat) : (refreshed r k).toNat = r.toNat / 128 * 128 + (r.toNat + k) % 128 := by
  have := r.isLt
  rw [refreshed, BitVec.toNat_ofNat]
  omega

theorem State.bumpR_eq (s : State) (k : Nat) : s.bumpR k = { s with r := refreshed s.r k } := by
  have h : (s.r &&& 0x80) ||| ((s.r + BitVec.ofNat 8 k) &&& 0x7F) = refreshed s.r k := by
    apply BitVec.eq_of_toNat_eq
    rw [toNat_keepBit7, toNat_refreshed, BitVec.toNat_add, BitVec.toNat_ofNat]
    omega
  rw [State.bumpR, h]

theorem refreshed_refreshed (r : Byte) (j k : Nat) : refreshed (refreshed r j) k = refreshed r (j + k) := by
  apply BitVec.eq_of_toNat_eq
  simp only [toNat_refreshed]
  omega

theorem refreshed_zero (r : Byte) : refreshed r 0 = r := by
  apply BitVec.eq_of_toNat_eq
  rw [toNat_refreshed]
  omega

/-- Bit 7 of R is kept (R39). -/
theorem bit7_refreshed (r : Byte) (k : Nat) : (refreshed r k).getLsbD 7 = r.getLsbD 7 := by
  rw [Bool.eq_iff_iff, bit7_iff, bit7_iff, toNat_refreshed]
  omega

theorem fetchCount_eq (t : OpTable) : fetchCount t = if t = .main then 1 else 2 := by
  cases t <;> rfl

/-! ### The head of a CPU step -/

namespace State

variable {s : State}

theorem intReady_iff : IntReady s ↔ (s.pendingInt && s.iff1 && !s.postEi) = true := by
  simp [IntReady, and_assoc]

theorem cpuStep_of_nmi (h : s.pendingNmi = true) : s.cpuStep = { s with postEi := false }.acceptNmi := by
  rw [cpuStep, if_pos h]

theorem cpuStep_of_int (hn : s.pendingNmi = false) (hi : IntReady s) : s.cpuStep = { s with postEi := false }.acceptInt := by
  rw [cpuStep, if_neg (ne_true_of_eq_false hn), if_pos (intReady_iff.1 hi)]

theorem cpuStep_of_halted (hn : s.pendingNmi = false) (hi : ¬ IntReady s) (hh : s.halted = true) :
    s.cpuStep = .next { s with postEi := false, cycles := s.cycles + 4, r := refreshed s.r 1 } := by
  rw [cpuStep, if_neg (ne_true_of_eq_false hn), if_neg (mt intReady_iff.2 hi), if_pos hh, idle, bumpR_eq]

/-- Where nothing comes first, the instruction at PC runs (R470). -/
theorem cpuStep_of_instr (hn : s.pendingNmi = false) (hi : ¬ IntReady s) (hh : s.halted = false) {t : OpTable} {i : Instr}
    (hf : fetched s = .instr t i) :
    s.cpuStep = exec i { s with postEi := false, r := refreshed s.r (if t = .main then 1 else 2) } := by
  have hf' : { s with postEi := false }.fetch = .instr t i := hf
  rw [cpuStep, if_neg (ne_true_of_eq_false hn), if_neg (mt intReady_iff.2 hi), if_neg (ne_true_of_eq_false hh), runInstruction, hf']
  simp only [bumpR_eq, fetchCount_eq]

theorem cpuStep_of_unset (hn : s.pendingNmi = false) (hi : ¬ IntReady s) (hh : s.halted = false) {t : OpTable} {op : Byte}
    (hf : fetched s = .unset t op) : s.cpuStep = .fault (.unimplementedOpcode t op) := by
  have hf' : { s with postEi := false }.fetch = .unset t op := hf
  rw [cpuStep, if_neg (ne_true_of_eq_false hn), if_neg (mt intReady_iff.2 hi), if_neg (ne_true_of_eq_false hh), runInstruction, hf']

theorem intVector_eq (t : State) :
    intVector t = if t.im = .im2 then wordOf (t.mmu.read (wordOf t.i 0xFF + 1)) (t.mmu.read (wordOf t.i 0xFF)) else 0x0038 := by
  unfold intVector
  cases t.im <;> rfl

theorem intCost_eq (t : State) : t.intCost = if t.im = .im2 then 19 else 13 := by
  unfold intCost
  cases t.im <;> rfl

theorem driverTurn_eq (s : State) : s.driverTurn = thenAdvance s.cycles s.cpuStep := by
  rw [driverTurn]
  cases s.cpuStep <;> rfl

end State

end Sys2Proof.Machine
end

section
/-! The statements of spec/60_exceptions.md settled, but for the cost of the instructions. -/

namespace Sys2Proof.Proofs.Step

open Sys2Proof.Machine Sys2Proof.Safety

/-- Settles O36, by the head of the CPU step where nothing comes before the instruction. -/
theorem stepRunsTheDecodedInstruction : Obligations.StepRunsTheDecodedInstruction := by
  unfold Obligations.StepRunsTheDecodedInstruction
  rintro s ⟨hd, hn, hi, hh⟩
  rw [step_of_nil hd, State.driverTurn_eq]
  refine ⟨fun t i hf => ?instr, fun t op hf => ?unset⟩
  case instr => rw [State.cpuStep_of_instr hn hi hh hf]
  case unset => rw [State.cpuStep_of_unset hn hi hh hf]; rfl

/-- Settles O37: a step is the first turn listed, or the driver's. -/
theorem turnsOfTheAgents : Obligations.TurnsOfTheAgents := by
  unfold Obligations.TurnsOfTheAgents
  intro s rest
  refine ⟨fun h => ?none, fun h => ?driver, step_of_cons, step_of_cons, fun _ => step_of_cons, fun _ => step_of_cons, step_of_cons,
    fun _ => step_of_cons, fun _ => step_of_cons⟩
  case none => rw [step_of_nil h, State.driverTurn_eq]
  case driver => exact (step_of_cons h).trans (State.driverTurn_eq { s with schedule := rest })

/-- Settles O38: the acceptance is a push, after which nothing is read. -/
theorem nmiAcceptance : Obligations.NmiAcceptance := by
  unfold Obligations.NmiAcceptance
  intro s h
  rw [State.cpuStep_of_nmi h]
  refine StoresTwo.andThen (State.push16_spec _ s.pc) fun n => ?_
  rw [State.bumpR_eq]
  rfl

/-- Settles O39: the acceptance is a push, and in mode 2 the vector is read from the memory the push leaves. -/
theorem intAcceptance : Obligations.IntAcceptance := by
  unfold Obligations.IntAcceptance
  intro s hn hi hi' lo
  rw [State.cpuStep_of_int hn hi, State.acceptInt, State.acceptInterrupt]
  obtain ⟨first, second, next⟩ := State.push16_spec
    { s with postEi := false, pendingInt := false, halted := false, iff1 := false, iff2 := false } s.pc
  refine ⟨fun h1 => by rw [first h1]; rfl, fun h1 h2 => by rw [second h1 h2]; rfl, fun h1 h2 => ?_⟩
  obtain ⟨m1, m2, e1, e2, h⟩ := next h1 h2
  refine ⟨m1, m2, e1, e2, ?_⟩
  rw [h, andThen_next, State.bumpR_eq]
  simp only [State.jump, State.intVector_eq, State.intCost_eq]

end Sys2Proof.Proofs.Step
end

section
/-! SUPPORT. What an advance of the VDP leaves alone whatever its line is, and the idle turns of a halted CPU. -/

namespace Sys2Proof.Machine

open Sys2Proof.Safety

/-- From `s` to `t` nothing but what the display and its interrupts are made of went on. -/
structure Displayed (s t : State) : Prop where
  reg  : t.vdp.reg = s.vdp.reg
  vram : t.vdp.vram = s.vdp.vram
  cram : t.vdp.cram = s.vdp.cram
  rest : t = { s with vdp := t.vdp, pendingInt := t.pendingInt, outputs := t.outputs, freeDraws := t.freeDraws }

theorem Displayed.refl (s : State) : Displayed s s := ⟨rfl, rfl, rfl, rfl⟩

theorem Displayed.trans {s t u : State} (h : Displayed s t) (k : Displayed t u) : Displayed s u :=
  ⟨k.reg.trans h.reg, k.vram.trans h.vram, k.cram.trans h.cram, k.rest.trans (by rw [h.rest])⟩

theorem State.crossLine_displayed (s : State) : Displayed s s.crossLine := by
  obtain ⟨st, lc, p, scr, n, h, -⟩ := s.crossLine_changes
  rw [h]
  exact ⟨rfl, rfl, rfl, rfl⟩

theorem State.crossLines_displayed (k : Nat) (s : State) : Displayed s (crossLines k s) := by
  induction k generalizing s with
  | zero => exact .refl s
  | succ k ih => exact s.crossLine_displayed.trans (ih s.crossLine)

theorem State.advance_displayed (s : State) (n : Nat) : Displayed s (s.advance n) :=
  .trans (t := { s with vdp := { s.vdp with hCounter := s.vdp.hCounter + n }, outputs := { s.outputs with frameDone := false } })
    ⟨rfl, rfl, rfl, rfl⟩ (State.crossLines_displayed _ _)

/-- What `n` turns of a halted CPU leave: `n` times 4 cycles and `n` fetches of R later. -/
structure Idled (n : Nat) (s t : State) : Prop where
  halted : t.halted = true
  iff1   : t.iff1 = false
  reg    : t.vdp.reg = s.vdp.reg
  vram   : t.vdp.vram = s.vdp.vram
  cram   : t.vdp.cram = s.vdp.cram
  rest   : t = { s with
    cycles := s.cycles + 4 * n, r := refreshed s.r n
    postEi := t.postEi, vdp := t.vdp, pendingInt := t.pendingInt, outputs := t.outputs, freeDraws := t.freeDraws }

theorem Idled.zero {s : State} (hh : s.halted = true) (hf : s.iff1 = false) : Idled 0 s s :=
  ⟨hh, hf, rfl, rfl, rfl, by rw [refreshed_zero]; rfl⟩

theorem Idled.succ {n : Nat} {s t u : State} (h : Idled 1 s t) (k : Idled n t u) : Idled (n + 1) s u := by
  refine ⟨k.halted, k.iff1, k.reg.trans h.reg, k.vram.trans h.vram, k.cram.trans h.cram, k.rest.trans ?_⟩
  have hc : s.cycles + 4 * 1 + 4 * n = s.cycles + 4 * (n + 1) := by omega
  rw [h.rest]
  simp only [refreshed_refreshed, hc, Nat.add_comm 1 n]

/-- One turn of a halted CPU whose interrupts are disabled. -/
theorem step_of_halted {s : State} (hh : s.halted = true) (hn : s.pendingNmi = false) (hf : s.iff1 = false) (hd : s.schedule = []) :
    ∃ t, step s = .next t ∧ Idled 1 s t := by
  have hi : ¬ IntReady s := fun h => Bool.noConfusion (hf.symm.trans h.2.1)
  rw [step_of_nil hd, State.driverTurn_eq, State.cpuStep_of_halted hn hi hh]
  obtain ⟨reg, vram, cram, rest⟩ := State.advance_displayed { s with postEi := false, cycles := s.cycles + 4, r := refreshed s.r 1 }
    (s.cycles + 4 - s.cycles)
  exact ⟨_, rfl, by rw [rest]; exact hh, by rw [rest]; exact hf, reg, vram, cram, by rw [rest]⟩

theorem runsTo_of_halted (n : Nat) {s : State} (hh : s.halted = true) (hn : s.pendingNmi = false) (hf : s.iff1 = false)
    (hd : s.schedule = []) : ∃ t, RunsTo n s t ∧ Idled n s t := by
  induction n generalizing s with
  | zero => exact ⟨s, rfl, .zero hh hf⟩
  | succ n ih =>
    obtain ⟨t, ht, h⟩ := step_of_halted hh hn hf hd
    obtain ⟨u, hu, k⟩ := ih h.halted (by rw [h.rest]; exact hn) h.iff1 (by rw [h.rest]; exact hd)
    exact ⟨u, ⟨t, ht, hu⟩, h.succ k⟩

end Sys2Proof.Machine
end

section
/-! SUPPORT. The cycles of an instruction are those of its table entry (R470): its base cost, or its second cost where it
branches or repeats. -/

namespace Sys2Proof.Machine

open Sys2Proof.Safety

variable {i : Instr} {s t : State}

theorem State.cycles_blockMove {step : Word} (h : s.blockMove step = .next t) : t.cycles = s.cycles := by
  obtain ⟨n, rfl⟩ := (s.blockMove_spec step).eq_of_next h
  rfl

theorem State.cycles_blockIn {step : Word} (h : s.blockIn step = .next t) : t.cycles = s.cycles := by
  obtain ⟨n, rfl⟩ := (s.blockIn_spec step).eq_of_next h
  exact (s.portRead_same s.main.c).cycles

/-- An iteration of a repeating block instruction, but for its end, leaves PC and the cycles alone. -/
theorem exec_of_isRepeating (h : exec i s = .next t) (hi : isRepeating i = true) :
    ∃ (u : State) (again : Bool), t = u.repeatIf again ∧ u.pc = s.pc ∧ u.cycles = s.cycles := by
  cases i with
  | ldir | lddr =>
    obtain ⟨u, hu, h⟩ := andThen_eq_next h
    cases h
    exact ⟨u, _, rfl, (State.blockMove_next hu).1, State.cycles_blockMove hu⟩
  | cpir | cpdr =>
    cases h
    exact ⟨_, _, rfl, (s.blockSearch_same _).pc, (s.blockSearch_same _).cycles⟩
  | inir | indr =>
    obtain ⟨u, hu, h⟩ := andThen_eq_next h
    cases h
    exact ⟨u, _, rfl, (State.blockIn_next hu).1, State.cycles_blockIn hu⟩
  | otir | otdr =>
    cases h
    exact ⟨_, _, rfl, (s.blockOut_same _).pc, (s.blockOut_same _).cycles⟩
  | _ => cases hi

/-- PC tells whether the iteration repeats, so its cycles follow from PC. -/
theorem exec_cycles_of_isRepeating (h : exec i s = .next t) (hi : isRepeating i = true) :
    t.cycles = s.cycles + if repeats i s then 21 else 16 := by
  have hpc := exec_pc_of_isRepeating h hi
  obtain ⟨u, again, rfl, upc, ucycles⟩ := exec_of_isRepeating h hi
  have : s.pc ≠ s.pc + 2 := by bv_omega
  rw [State.pc_repeatIf, upc] at hpc
  rw [← ucycles]
  cases again <;> cases hr : repeats i s <;> simp_all [State.repeatIf, State.jump, State.done]

/-- A branch costs its second cost where it is taken. -/
theorem exec_cycles_of_branch {o : Result} {len : Nat}
    (h : (if transfers i s then o else .next (s.done len i.row.cycles)) = .next t)
    (taken : o = .next t → t.cycles = s.cycles + i.row.cyclesTaken.getD i.row.cycles) (hr : repeats i s = false) :
    t.cycles = s.cycles + if transfers i s || repeats i s then i.row.cyclesTaken.getD i.row.cycles else i.row.cycles := by
  rw [hr, Bool.or_false]
  split at h
  case isTrue ht => rw [if_pos ht, taken h]
  case isFalse ht => cases h; rw [if_neg ht]; rfl

theorem cycles_of_call {target : Word} {len n : Nat} (h : s.call target len n = .next t) : t.cycles = s.cycles + n := by
  obtain ⟨u, hu, h⟩ := andThen_eq_next h
  obtain ⟨_, _, _, _, rfl⟩ := s.push16_next hu
  cases h
  rfl

theorem cycles_of_djnz {e : Byte} (h : exec (.djnzE e) s = .next t) : t.cycles = s.cycles + if s.main.b != 1 then 13 else 8 := by
  have h : (if s.main.b - 1 != 0 then .next ((s.setR .b (s.main.b - 1)).jump ((s.setR .b (s.main.b - 1)).relTarget e) 13)
    else .next ((s.setR .b (s.main.b - 1)).done 2 8) : Result) = .next t := h
  rw [← sub_one_bne_zero]
  split at h
  case isTrue hb => cases h; rw [if_pos hb]; rfl
  case isFalse hb => cases h; rw [if_neg hb]; rfl

/-- The cycles an instruction costs by its table entry. -/
theorem exec_cycles (h : exec i s = .next t) :
    t.cycles = s.cycles + if transfers i s || repeats i s then i.row.cyclesTaken.getD i.row.cycles else i.row.cycles := by
  cases i with
  | jpNn | jrE | jpHl | jpIx | jpIy | ret | reti | retn | retnMirror => cases h; rfl
  | callNn | rstP => exact cycles_of_call h
  | jpCcNn | jrCE | jrNcE | jrZE | jrNzE | retCc => exact exec_cycles_of_branch h (fun h => by cases h; rfl) rfl
  | callCcNn => exact exec_cycles_of_branch h cycles_of_call rfl
  | djnzE => exact (cycles_of_djnz h).trans (by rw [← Bool.or_false (s.main.b != 1)]; rfl)
  | ldir | lddr | cpir | cpdr | inir | indr | otir | otdr => exact exec_cycles_of_isRepeating h rfl
  | _ => exact (exec_next h).cost rfl

/-! ### How a step stops -/

/-- An outcome that is a next state or one of the two faults of a CPU step (R460, R461). -/
def StopsOnly (s : State) (o : Result) : Prop := (∀ r, o ≠ .refused r) ∧ ∀ f, o = .fault f → StepFault s f

theorem driverTurn_stopsOnly (s : State) : StopsOnly s s.driverTurn := by
  rw [State.driverTurn_eq]
  have h := cpuStep_ends s
  generalize s.cpuStep = o at h
  cases o with
  | next t => exact ⟨nofun, nofun⟩
  | fault f => exact ⟨nofun, fun g hg => by cases hg; exact h⟩
  | refused r => exact h.elim

/-- The turns of the other agents stop nowhere. -/
theorem takeTurn_stopsOnly (s : State) (turn : Turn) : StopsOnly s (s.takeTurn turn) := by
  cases turn with
  | driver => exact driverTurn_stopsOnly s
  | _ => exact ⟨nofun, nofun⟩

theorem step_stopsOnly (s : State) : StopsOnly s (step s) := by
  cases hs : s.schedule with
  | nil => exact step_of_nil hs ▸ driverTurn_stopsOnly s
  | cons turn rest =>
    rw [step_of_cons hs]
    obtain ⟨hr, hf⟩ := takeTurn_stopsOnly { s with schedule := rest } turn
    exact ⟨hr, fun f h => by cases f <;> exact hf _ h⟩

/-! ### R after a CPU step -/

theorem State.r_of_acceptInterrupt {u : State} {b : Bool} {vector : State → Word} {n : Nat}
    (h : u.acceptInterrupt b vector n = .next t) : t.r = refreshed u.r 1 := by
  obtain ⟨v, hv, h⟩ := andThen_eq_next h
  obtain ⟨_, _, _, _, rfl⟩ := State.push16_next _ hv
  cases h
  rw [State.bumpR_eq]
  rfl

/-- An acceptance and a step spent halted count 1 (R39). -/
theorem r_of_cpuStep_first (h : s.cpuStep = .next t) (first : s.pendingNmi = true ∨ IntReady s ∨ s.halted = true) :
    t.r = refreshed s.r 1 := by
  by_cases hn : s.pendingNmi = true
  · exact State.r_of_acceptInterrupt (u := { s with postEi := false, pendingNmi := false }) ((State.cpuStep_of_nmi hn).symm.trans h)
  have hn := Bool.eq_false_iff.2 hn
  by_cases hi : IntReady s
  · exact State.r_of_acceptInterrupt (u := { s with postEi := false, pendingInt := false })
      ((State.cpuStep_of_int hn hi).symm.trans h)
  have hh : s.halted = true := by simpa [hn, hi] using first
  cases (State.cpuStep_of_halted hn hi hh).symm.trans h
  rfl

/-- `LD R,A` writes R; every other instruction keeps it. -/
theorem r_of_exec (h : exec i s = .next t) : t.r = if i = .ldRA then s.main.a else s.r := by
  cases hw : writesControl i with
  | false => rw [((exec_next h).control hw).r, if_neg (by rintro rfl; cases hw)]
  | true =>
    cases i with
    | halt | di | ei | im0 | im1 | im2 | im0Mirror | im1Mirror | im2Mirror | reti | retn | retnMirror | ldIA | ldRA | exAfAf | exx =>
      cases h
      rfl
    | _ => cases hw

theorem r_of_cpuStep_instr (h : s.cpuStep = .next t) (hn : s.pendingNmi = false) (hi : ¬ IntReady s) (hh : s.halted = false) :
    ∃ table i, fetched s = .instr table i ∧
      t.r = if i = .ldRA then s.main.a else refreshed s.r (if table = .main then 1 else 2) := by
  cases hf : fetched s with
  | unset table op => cases (State.cpuStep_of_unset hn hi hh hf).symm.trans h
  | instr table i =>
    rw [State.cpuStep_of_instr hn hi hh hf] at h
    exact ⟨table, i, rfl, r_of_exec h⟩

/-- `LD R,A` is in the ED table alone. -/
theorem table_of_fetched_ldRA {table : OpTable} (h : fetched s = .instr table .ldRA) : table = .ed := by
  obtain ⟨-, ht, hp, -, -⟩ := Proofs.Encoding.encodeInvertsDecode _ _ _ _ _ _ h
  have h0 : s.read s.pc = 0xED := (List.cons_prefix_cons.1 hp).1.symm
  rw [ht, h0]
  rfl

end Sys2Proof.Machine
end

section
/-! The statements of spec/60_exceptions.md and spec/10_state.md section 6 settled that speak of many steps or of every instruction. -/

namespace Sys2Proof.Proofs.Step

open Sys2Proof.Machine Sys2Proof.Safety

/-- Settles O40: one idle turn, and any number of them by induction. -/
theorem haltedCpuIdles : Obligations.HaltedCpuIdles := by
  unfold Obligations.HaltedCpuIdles
  refine ⟨fun s hh hn hi => State.cpuStep_of_halted hn hi hh, fun n s hh hn hf hd => ?_⟩
  obtain ⟨t, ht, halted, iff1, reg, vram, cram, rest⟩ := runsTo_of_halted n hh hn hf hd
  exact ⟨t, ht, halted, iff1, reg, vram, cram, rest⟩

/-- Settles O46, by what is around every instruction that completes. -/
theorem noInstructionChanges : Obligations.NoInstructionChanges := by
  unfold Obligations.NoInstructionChanges
  intro i s t h
  obtain ⟨mmu, vdp, psg, int, nmi, inputs, outputs, schedule⟩ := (exec_next h).around
  obtain ⟨rom, bankCount, mapper⟩ := mmu.cartridge
  obtain ⟨line, hCounter, vCounter, lineCounter⟩ := vdpAccess_counters vdp
  exact ⟨rom, bankCount, mapper, nmi, int, inputs, outputs, schedule, line, hCounter, vCounter, lineCounter, psg⟩

/-- Settles O47: every other instruction keeps the control state. -/
theorem controlStateWriters : Obligations.ControlStateWriters := by
  unfold Obligations.ControlStateWriters
  intro i s t h
  cases hw : writesControl i with
  | false =>
    obtain ⟨hi, hr, hiff1, hiff2, him, hhalted, hpostEi, hshadow⟩ := (exec_next h).control hw
    exact ⟨(absurd hi ·), (absurd hr ·), (absurd hiff1 ·), (absurd hiff2 ·), (absurd him ·), (absurd hhalted ·), (absurd hpostEi ·),
      (absurd hshadow ·)⟩
  | true =>
    cases i with
    | halt | di | ei | im0 | im1 | im2 | im0Mirror | im1Mirror | im2Mirror | reti | retn | retnMirror | ldIA | ldRA | exAfAf | exx =>
      cases h
      simp [State.done, State.returnFromInterrupt, State.popped, State.jump]
    | _ => cases hw

/-- Settles O41: the cycles of a CPU step and of an instruction; what the turns of the other agents cannot do; the faults of a CPU step. -/
theorem stepOutcomes : Obligations.StepOutcomes := by
  unfold Obligations.StepOutcomes
  intro s
  obtain ⟨refused, fault⟩ := step_stopsOnly s
  refine ⟨fun t h => (cpuStep_next h).cycles, fun i t h => exec_cycles h, refused, fun f h => ?_⟩
  cases f with
  | unimplementedOpcode table op => exact .inl ⟨table, op, rfl, fault _ h⟩
  | unsupportedMapperControl v => exact .inr ⟨v, rfl, fault _ h⟩

/-- Settles O42: R counts the fetches, and only `LD R,A` writes it otherwise. -/
theorem refreshRegister : Obligations.RefreshRegister := by
  unfold Obligations.RefreshRegister
  intro s t h
  by_cases first : s.pendingNmi = true ∨ IntReady s ∨ s.halted = true
  · have hr := r_of_cpuStep_first h first
    refine ⟨fun _ => hr, fun hn hi hh => ?_, fun _ => by rw [hr, bit7_refreshed]⟩
    simp only [hn, hi, hh, Bool.false_eq_true, or_self] at first
  · obtain ⟨hn, hi, hh⟩ : s.pendingNmi = false ∧ ¬ IntReady s ∧ s.halted = false := by simpa using first
    obtain ⟨table, i, hf, hr⟩ := r_of_cpuStep_instr h hn hi hh
    refine ⟨(absurd · first), fun _ _ _ => ⟨table, i, hf, hr⟩, fun hne => ?_⟩
    have : i ≠ .ldRA := by
      rintro rfl
      obtain rfl := table_of_fetched_ldRA hf
      exact hne hf
    rw [hr, if_neg this, bit7_refreshed]

end Sys2Proof.Proofs.Step
end

section
/-! SUPPORT. One scanline crossing in closed form (R525, R531, R533), and what rendering a line does to bit 7 of the status. -/

namespace Sys2Proof.Machine

open Sys2Proof.Safety

theorem vcount_toNat {l : Nat} (h : l < 262) : (vcount l).toNat = if l ≤ 218 then l else l - 6 := by
  unfold vcount
  split <;> rw [BitVec.toNat_ofNat] <;> omega

/-- R533. -/
theorem Vdp.lineCounterEvent_eq (v : Vdp) (l : Nat) : v.lineCounterEvent l =
    ({ v with lineCounter := if l ≤ 192 ∧ v.lineCounter ≠ 0 then v.lineCounter - 1 else v.reg[10] },
      decide (l ≤ 192 ∧ v.lineCounter = 0) && v.lineIrqEnabled) := by
  unfold Vdp.lineCounterEvent
  rw [Config.activeLines]
  by_cases hl : l ≤ 192
  · by_cases hc : v.lineCounter = 0
    · rw [if_pos hl, if_pos hc, if_neg fun h => h.2 hc, decide_eq_true ⟨hl, hc⟩, Bool.true_and]
    · rw [if_pos hl, if_neg hc, if_pos ⟨hl, hc⟩, decide_eq_false fun h => hc h.2, Bool.false_and]
  · rw [if_neg hl, if_neg fun h => hl h.1, decide_eq_false fun h => hl h.1, Bool.false_and]

/-- R531, where the line may be another one. -/
theorem Vdp.frameInterruptEvent_eq (v : Vdp) (l : Nat) : (if l = 192 then v.frameInterruptEvent else (v, false)) =
    ({ v with status := v.status ||| (if l = 192 then 0x80 else 0) }, decide (l = 192) && v.frameIrqEnabled) := by
  unfold Vdp.frameInterruptEvent
  by_cases hl : l = 192 <;> simp [hl]

namespace State

variable (s : State)

/-- The machine when line `l` begins and the one before it is not yet rendered: the counters have moved on and the interrupt events have
happened. -/
def lineBegun (l : Nat) : State :=
  { s with
    vdp := { s.vdp with
      hCounter := s.vdp.hCounter - 228, line := l, vCounter := vcount l
      lineCounter := if l ≤ 192 ∧ s.vdp.lineCounter ≠ 0 then s.vdp.lineCounter - 1 else s.vdp.reg[10]
      status := s.vdp.status ||| (if l = 192 then 0x80 else 0) }
    pendingInt := s.pendingInt || (decide (l ≤ 192 ∧ s.vdp.lineCounter = 0) && s.vdp.lineIrqEnabled) ||
      (decide (l = 192) && s.vdp.frameIrqEnabled) }

/-- Line `y` rendered where it is a displayed one. -/
def renderActive (y : Nat) : State := if y < 192 then s.render y else s

theorem crossLine_eq :
    let l := (s.vdp.line + 1) % 262
    let t := (s.lineBegun l).renderActive s.vdp.line
    s.crossLine = { t with outputs := { t.outputs with frameDone := t.outputs.frameDone || decide (l = 0) } } := by
  unfold crossLine
  simp only [Config.linesPerFrame, Config.cyclesPerLine, Config.activeLines, Vdp.lineCounterEvent_eq, Vdp.frameInterruptEvent_eq,
    Vdp.lineIrqEnabled, Vdp.frameIrqEnabled, Vdp.regBit, renderActive, lineBegun]
  generalize (s.vdp.line + 1) % 262 = l
  by_cases h0 : l = 0
  · rw [if_pos h0, decide_eq_true h0, Bool.or_true]
  · rw [if_neg h0, decide_eq_false h0, Bool.or_false]

theorem renderActive_changes (y : Nat) : ∃ st scr n, s.renderActive y = { s with
    vdp := { s.vdp with status := st }, outputs := { s.outputs with screen := scr }, freeDraws := n } := by
  unfold renderActive
  split
  · obtain ⟨st, f, n, h, -⟩ := s.render_changes y
    exact ⟨st, _, n, h⟩
  · exact ⟨_, _, _, rfl⟩

theorem renderActive_congr {s t : State} (h : SameView s.vdp t.vdp) (hs : s.outputs.screen = t.outputs.screen)
    (hf : s.freeDraws = t.freeDraws) (y : Nat) {x : Byte} (hx : s.vdp.status = t.vdp.status ||| x) :
    (s.renderActive y).outputs.screen = (t.renderActive y).outputs.screen ∧ (s.renderActive y).freeDraws = (t.renderActive y).freeDraws ∧
    (s.renderActive y).vdp.status = (t.renderActive y).vdp.status ||| x := by
  unfold renderActive
  split
  · exact render_congr h hs hf y hx
  · exact ⟨hs, hf, hx⟩

/-- Sprites set bits 6 and 5 of the status alone (R546). -/
theorem renderActive_bit7 (y : Nat) : (s.renderActive y).vdp.status.getLsbD 7 = s.vdp.status.getLsbD 7 := by
  unfold renderActive render
  dsimp only
  split
  · split
    · rfl
    · split
      · simp only [Vdp.spriteStatus, BitVec.getLsbD_or]
        cases (s.vdp.sprites y).overflow <;> cases (s.vdp.sprites y).collision <;> simp
      · rfl
  · rfl

/-- The V counter follows the line through an advance (R528). -/
theorem vCounter_advance (n : Nat) (h : VdpOk s.vdp) : (s.advance n).vdp.vCounter = vcount (s.advance n).vdp.line := by
  obtain ⟨st, lc, p, scr, d, e, -⟩ := s.advance_changes n h.line
  rw [e]
  simp only [crossed]
  split
  case isTrue h0 => rw [h0, Nat.add_zero, Nat.mod_eq_of_lt h.line, h.vCounter]
  case isFalse => rfl

end State

end Sys2Proof.Machine
end

section
/-! The statements of spec/65_platform_devices.md section 3 settled. -/

namespace Sys2Proof.Proofs.Display

open Sys2Proof.Machine Sys2Proof.Safety

/-- Settles O54: the loop in closed form, and arithmetic. -/
theorem vdpPosition : Obligations.VdpPosition := by
  unfold Obligations.VdpPosition
  intro s n ok
  obtain ⟨st, lc, p, scr, d, e, -, hp, -⟩ := s.advance_changes n ok.line
  have hv : (s.advance n).vdp.vCounter = vcount (s.advance n).vdp.line := s.vCounter_advance n ok
  rw [e] at hv ⊢
  have hline := ok.line
  have hh := ok.hCounter
  have hlt : (s.vdp.line + (s.vdp.hCounter + n) / 228) % 262 < 262 := Nat.mod_lt _ (by decide)
  refine ⟨?_, ?_, hlt, ?_, ?_, hp, rfl, st, lc, ?_⟩
  · simp only [State.crossed]
    omega
  · simp only [State.crossed]
    omega
  · simp only [State.crossed, decide_eq_true_iff]
    omega
  · exact (congrArg BitVec.toNat hv).trans (vcount_toNat hlt)
  · simp only [State.crossed]

/-- Settles O55: at most one crossing, of a line that renders as it would have before its interrupt events. -/
theorem interruptEvents : Obligations.InterruptEvents := by
  unfold Obligations.InterruptEvents
  intro s n hh hl
  refine ⟨fun hn => ?none, fun h1 h2 => ?one⟩
  case none =>
    have h0 : (s.vdp.hCounter + n) / 228 = 0 := Nat.div_eq_of_lt hn
    simp only [State.advance, Config.cyclesPerLine, h0, State.crossLines]
  case one =>
    have h0 : (s.vdp.hCounter + n) / 228 = 1 := by omega
    simp only [State.advance, Config.cyclesPerLine, h0, State.crossLines, State.crossLine_eq]
    generalize (s.vdp.line + 1) % 262 = l
    generalize hu : State.lineBegun _ l = u
    obtain ⟨hscr, hfree, hst⟩ : (u.renderActive s.vdp.line).outputs.screen = (s.renderActive s.vdp.line).outputs.screen ∧
        (u.renderActive s.vdp.line).freeDraws = (s.renderActive s.vdp.line).freeDraws ∧
        (u.renderActive s.vdp.line).vdp.status = (s.renderActive s.vdp.line).vdp.status ||| if l = 192 then 0x80 else 0 :=
      State.renderActive_congr (by subst hu; exact ⟨rfl, rfl, rfl⟩) (by subst hu; rfl) (by subst hu; rfl) _ (by subst hu; rfl)
    have h7 := s.renderActive_bit7 s.vdp.line
    obtain ⟨st, scr, m, e⟩ := u.renderActive_changes s.vdp.line
    obtain ⟨st', scr', m', e'⟩ := s.renderActive_changes s.vdp.line
    simp only [e, e'] at hscr hfree hst h7
    rw [State.renderActive] at e'
    simp only [e, e', hscr, hfree, hst]
    subst hu
    simp only [State.lineBegun, Bool.false_or, true_and]
    clear e e'
    refine ⟨?_, ?_⟩
    · simp [Vdp.lineIrqEnabled, Vdp.frameIrqEnabled, Vdp.regBit, and_assoc, or_assoc]
    · rw [BitVec.getLsbD_or, h7]
      by_cases h192 : l = 192 <;> simp [h192]

end Sys2Proof.Proofs.Display
end

section
/-! SUPPORT. What `render` puts on the screen and in the status (R541 to R548). -/

namespace Sys2Proof.Machine

theorem lookup_cons_eq_ite {α : Type} (k : Nat) (l : α) (rest : List (Nat × α)) (z : Nat) :
    ((k, l) :: rest).lookup z = if z = k then some l else rest.lookup z := by
  rw [List.lookup_cons]
  by_cases h : z = k
  · rw [if_pos h, beq_iff_eq.2 h]
  · rw [if_neg h, beq_false_of_ne h]

/-- The line put is there, and every other line is as before. -/
theorem lookup_putLine (screen : List (Nat × List Rgba)) (y : Nat) (line : List Rgba) (z : Nat) :
    (putLine screen y line).lookup z = if z = y then some line else screen.lookup z := by
  induction screen with
  | nil => rw [putLine, lookup_cons_eq_ite]
  | cons head rest ih =>
    obtain ⟨k, l⟩ := head
    rw [putLine]
    split
    · rw [lookup_cons_eq_ite]
    · split
      next h => simp only [lookup_cons_eq_ite, h]; split <;> rfl
      next h =>
        simp only [lookup_cons_eq_ite, ih]
        split
        next hk => rw [if_neg (hk ▸ Ne.symm h)]
        next => rfl

theorem length_lineOf (f : Nat → Rgba) : (lineOf f).length = 256 := by
  rw [lineOf, List.length_map, List.length_range, Config.screenW]

theorem lineOf_const (c : Rgba) : lineOf (fun _ => c) = List.replicate 256 c := by
  rw [lineOf, List.map_const', List.length_range, Config.screenW]

/-- A line that begins with eight pixels of one colour. -/
theorem take_lineOf {f : Nat → Rgba} {c : Rgba} (h : ∀ x < 8, f x = c) : (lineOf f).take 8 = List.replicate 8 c := by
  rw [lineOf, ← List.map_take, List.take_range, Config.screenW]
  exact List.map_eq_replicate_iff.2 fun x hx => h x (List.mem_range.1 hx)

/-- A colour is three pairs of bits, each times 85 (R541). -/
theorem palette_eq (c : Byte) : palette c =
    { r := BitVec.ofNat 8 (c.toNat % 4 * 85), g := BitVec.ofNat 8 (c.toNat / 4 % 4 * 85), b := BitVec.ofNat 8 (c.toNat / 16 % 4 * 85)
      a := 255 } := by
  simp only [palette, BitVec.extractLsb'_toNat, Nat.shiftRight_eq_div_pow, Nat.reducePow, Nat.div_one]

theorem Vdp.backdrop_eq (v : Vdp) : v.backdrop = v.colour (16 + v.reg[7].toNat % 16) := by
  rw [Vdp.backdrop, BitVec.toNat_and]
  exact congrArg (fun n => v.colour (16 + n)) (Nat.and_two_pow_sub_one_eq_mod v.reg[7].toNat 4)

/-- The column mask (R545). -/
theorem Vdp.mode4Pixel_masked {v : Vdp} (h : v.regBit 0 5 = true) (y : Nat) (sc : SpriteScan) {x : Nat} (hx : x < 8) :
    v.mode4Pixel y sc x = v.backdrop := by
  rw [Vdp.mode4Pixel, h, decide_eq_true hx, Bool.true_and, if_pos rfl]

/-- A line is put on the screen; what the line is and the VDP depend on the display mode (R542). -/
theorem State.render_eq (s : State) (y : Nat) : ∃ v f n,
    s.render y = { s with
      vdp := v, outputs := { s.outputs with screen := putLine s.outputs.screen y (lineOf f) }, freeDraws := n } ∧
    (s.vdp.regBit 1 6 = false → f = fun _ => s.vdp.backdrop) ∧
    (s.vdp.regBit 1 6 = false ∨ s.vdp.regBit 0 2 = false → v = s.vdp) ∧
    (s.vdp.regBit 1 6 = true → s.vdp.regBit 0 2 = true →
      f = s.vdp.mode4Pixel y (s.vdp.sprites y) ∧ v = { s.vdp with status := s.vdp.spriteStatus (s.vdp.sprites y) }) := by
  unfold State.render
  dsimp only
  cases hs : s.vdp.regBit 1 6 with
  | false => exact ⟨_, _, _, rfl, fun _ => rfl, fun _ => rfl, nofun⟩
  | true =>
    cases hm : s.vdp.regBit 0 2 with
    | true => exact ⟨_, _, _, rfl, nofun, by simp, fun _ _ => ⟨rfl, rfl⟩⟩
    | false => exact ⟨_, _, _, rfl, nofun, fun _ => rfl, nofun⟩

end Sys2Proof.Machine
end

section
/-! SUPPORT. The sprite scan counts the sprites of the line before the sentinel (R544). -/

namespace Sys2Proof.Machine

open Sys2Proof.Safety

theorem scanSprites_succ (v : Vdp) (y k i : Nat) (sc : SpriteScan) : v.scanSprites y (k + 1) i sc =
    if spriteY v i = 0xD0 then sc
    else if spriteOnLine v y i then
      if sc.count + 1 = 9 then { sc with count := 9, overflow := true }
      else v.scanSprites y k (i + 1) (v.plotSprite y i (spriteTop v i) { sc with count := sc.count + 1 })
    else v.scanSprites y k (i + 1) sc := by
  simp only [Vdp.scanSprites, spriteOnLine, decide_eq_true_iff]
  rfl

/-- The scan overflows where, with those it has found, more than eight of the sprites before the sentinel fall on the line. -/
theorem scanSprites_overflow (v : Vdp) (y k i : Nat) (sc : SpriteScan) (hc : sc.count ≤ 8) (hv : sc.overflow = false) :
    (v.scanSprites y k i sc).overflow =
      decide (8 < sc.count + ((List.range' i k).takeWhile fun i => decide (spriteY v i ≠ 0xD0)).countP (spriteOnLine v y)) := by
  induction k generalizing i sc with
  | zero =>
    rw [Vdp.scanSprites, hv, eq_comm, decide_eq_false_iff_not]
    exact Nat.not_lt.2 hc
  | succ k ih =>
    rw [scanSprites_succ, List.range'_succ, List.takeWhile_cons]
    by_cases hs : spriteY v i = 0xD0
    · simp [hs, hv, hc]
    rw [if_neg hs, if_pos (decide_eq_true hs), List.countP_cons]
    cases ho : spriteOnLine v y i with
    | false => exact ih (i + 1) sc hc hv
    | true =>
      rw [if_pos rfl, if_pos rfl]
      by_cases h9 : sc.count + 1 = 9
      · rw [if_pos h9, eq_comm, decide_eq_true_iff]
        omega
      · obtain ⟨-, -, hcount, hover⟩ := plotSprite_spec v y i { sc with count := sc.count + 1 }
        rw [if_neg h9, ih (i + 1) _ (by rw [hcount]; exact Nat.lt_of_le_of_ne hc (h9 ∘ congrArg (· + 1))) (hover.trans hv), hcount]
        show decide (8 < sc.count + 1 + _) = _
        rw [Nat.add_assoc, Nat.add_comm 1]

end Sys2Proof.Machine
end

section
/-! The statements of spec/65_platform_devices.md section 4 settled. -/

namespace Sys2Proof.Proofs.Display

open Sys2Proof.Machine Sys2Proof.Safety

/-- Settles O56: the line `render` puts, in each display mode. -/
theorem renderedLines : Obligations.RenderedLines := by
  unfold Obligations.RenderedLines
  intro s y
  obtain ⟨v, f, n, e, hblank, hkept, hmode4⟩ := s.render_eq y
  have backdrop : s.vdp.backdrop = _ := s.vdp.backdrop_eq.trans (palette_eq _)
  rw [e]
  refine ⟨fun z hz => ?_, ⟨lineOf f, ?_, length_lineOf f, fun h => ?_, fun h1 h2 h3 => ?_⟩, hkept, fun h1 h2 => ?_, rfl, rfl, rfl⟩
  · rw [lookup_putLine, if_neg hz]
  · rw [lookup_putLine, if_pos rfl]
  · rw [hblank h, lineOf_const, backdrop]
  · rw [(hmode4 h1 h2).1]
    exact (take_lineOf fun x hx => Vdp.mode4Pixel_masked h3 y _ hx).trans (congrArg (List.replicate 8) backdrop)
  · exact ⟨_, _, .rfl, sprites_collision_iff s.vdp y, (hmode4 h1 h2).2⟩

/-- Settles O57, by induction on the sprites left. -/
theorem spriteOverflow : Obligations.SpriteOverflow := by
  unfold Obligations.SpriteOverflow
  intro v y
  dsimp only
  rw [List.takeWhile_map, List.countP_map, List.range_eq_range']
  refine (scanSprites_overflow v y 64 0 _ (Nat.zero_le 8) rfl).trans ?_
  rw [Nat.zero_add]
  rfl

end Sys2Proof.Proofs.Display
end

section
/-! SUPPORT. What a byte does to the PSG (R558), what the mixer takes (R563), and the bounds of the attenuation table (R562). -/

namespace Sys2Proof.Machine

theorem toNat_append_eq {m n : Nat} (x : BitVec m) (y : BitVec n) : (x ++ y).toNat = x.toNat * 2 ^ n + y.toNat := by
  rw [BitVec.toNat_append, ← Nat.shiftLeft_add_eq_or_of_lt y.isLt, Nat.shiftLeft_eq]

/-- A latch byte replaces the low four bits of a tone register (R558). -/
theorem toNat_tone_low (old : BitVec 10) (v : Byte) :
    (old.extractLsb' 4 6 ++ v.extractLsb' 0 4 : BitVec 10).toNat = old.toNat / 16 * 16 + v.toNat % 16 := by
  refine (toNat_append_eq (old.extractLsb' 4 6) (v.extractLsb' 0 4)).trans ?_
  rw [BitVec.extractLsb'_toNat, BitVec.extractLsb'_toNat, Nat.shiftRight_eq_div_pow, Nat.shiftRight_zero]
  omega

/-- A data byte replaces its high six bits (R558). -/
theorem toNat_tone_high (old : BitVec 10) (v : Byte) :
    (v.extractLsb' 0 6 ++ old.extractLsb' 0 4 : BitVec 10).toNat = v.toNat % 64 * 16 + old.toNat % 16 := by
  refine (toNat_append_eq (v.extractLsb' 0 6) (old.extractLsb' 0 4)).trans ?_
  rw [BitVec.extractLsb'_toNat, BitVec.extractLsb'_toNat, Nat.shiftRight_zero, Nat.shiftRight_zero]
  rfl

namespace Psg

variable (p : Psg) (v : Byte)

/-- The latch byte's choice of a register, before the write (R558). -/
def selected : Psg :=
  if v.getLsbD 7 then { p with latchCh := v.extractLsb' 5 2, latchType := if v.getLsbD 4 then .volume else .tone } else p

/-- The channel and the register type a byte writes: those of a latch byte, or those latched before. -/
theorem selected_eq : ∃ ch type, p.selected v = { p with latchCh := ch, latchType := type } ∧
    ch.toNat = (if v.getLsbD 7 then v.toNat / 32 % 4 else p.latchCh.toNat) ∧
    (type = .volume ↔ (if v.getLsbD 7 then v.getLsbD 4 else decide (p.latchType = .volume)) = true) := by
  unfold selected
  cases v.getLsbD 7 with
  | false => exact ⟨p.latchCh, p.latchType, rfl, rfl, decide_eq_true_iff.symm⟩
  | true =>
    refine ⟨_, _, rfl, ?_, ?_⟩
    · rw [if_pos rfl, BitVec.extractLsb'_toNat, Nat.shiftRight_eq_div_pow]
    · cases v.getLsbD 4 <;> simp

theorem apply_eq : p.apply v = (p.selected v).setLatched v (v.getLsbD 7) := by
  unfold apply selected
  cases v.getLsbD 7 <;> rfl

/-- All a write to the latched register changes. -/
theorem setLatched_eq (low : Bool) : ∃ vol tone noise noisePos,
    p.setLatched v low = { p with vol, tone, noise, noisePos } ∧
    (∀ c : Fin 4, vol[c].toNat = if p.latchType = .volume ∧ c.1 = p.latchCh.toNat then v.toNat % 16 else p.vol[c].toNat) ∧
    (∀ c : Fin 3, tone[c].toNat =
      if p.latchType = .tone ∧ c.1 = p.latchCh.toNat then
        (if low then p.tone[c].toNat / 16 * 16 + v.toNat % 16 else v.toNat % 64 * 16 + p.tone[c].toNat % 16)
      else p.tone[c].toNat) ∧
    (p.latchType = .tone ∧ p.latchCh.toNat = 3 → noise.toNat = v.toNat % 8 ∧ noisePos = 0) ∧
    (¬ (p.latchType = .tone ∧ p.latchCh.toNat = 3) → noise = p.noise ∧ noisePos = p.noisePos) := by
  have hch := p.latchCh.isLt
  have hv (n : Nat) : (v.extractLsb' 0 n).toNat = v.toNat % 2 ^ n := by rw [BitVec.extractLsb'_toNat, Nat.shiftRight_zero]
  unfold setLatched
  cases ht : p.latchType with
  | volume =>
    refine ⟨_, _, _, _, rfl, fun c => ?_, fun c => ?_, nofun, fun _ => ⟨rfl, rfl⟩⟩
    · simp only [Fin.getElem_fin, Vector.getElem_setIfInBounds, true_and, eq_comm (a := c.1)]
      split
      · exact hv 4
      · rfl
    · simp
  | tone =>
    dsimp only
    split
    case isTrue h3 =>
      refine ⟨_, _, _, _, rfl, fun c => ?_, fun c => ?_, fun h => ?_, fun _ => ⟨rfl, rfl⟩⟩
      · simp
      · simp only [Fin.getElem_fin, Vector.getElem_set, true_and, eq_comm (a := c.1)]
        split
        next h =>
          cases low
          · simp only [h, Bool.false_eq_true, if_false, toNat_tone_high]
          · simp only [h, if_true, toNat_tone_low]
        next => rfl
      · omega
    case isFalse h3 =>
      refine ⟨_, _, _, _, rfl, fun c => ?_, fun c => ?_, fun _ => ⟨hv 3, rfl⟩, fun h => ?_⟩
      · simp
      · rw [if_neg]
        omega
      · exact absurd ⟨rfl, by omega⟩ h

/-! ### The mixer -/

theorem clock_apply : (p.apply v).clock = p.clock := by
  obtain ⟨_, _, _, _, h, -⟩ := (p.selected v).setLatched_eq v (v.getLsbD 7)
  rw [apply_eq, h, selected]
  cases v.getLsbD 7 <;> rfl

/-- The event is due at the mixer's clock. -/
def due (e : PsgEvent) : Bool := decide (e.cycle * Config.sampleRate ≤ p.clock)

/-- The PSG after the bytes of a list of events. -/
def applied (p : Psg) (l : List PsgEvent) : Psg := l.foldl (fun q e => q.apply e.byte) p

theorem clock_applied (l : List PsgEvent) : (p.applied l).clock = p.clock := by
  induction l generalizing p with
  | nil => rfl
  | cons e rest ih => exact (ih (p.apply e.byte)).trans (p.clock_apply e.byte)

/-- The events taken are those due before the first that is not (R563). -/
theorem drain_eq (l : List PsgEvent) : p.drain l = { p.applied (l.takeWhile p.due) with fifo := l.dropWhile p.due } := by
  induction l generalizing p with
  | nil => rfl
  | cons e rest ih =>
    have hdue : (p.apply e.byte).due = p.due := by funext x; rw [due, clock_apply, due]
    rw [drain, List.takeWhile_cons, List.dropWhile_cons]
    by_cases h : e.cycle * Config.sampleRate ≤ p.clock
    · have hd : p.due e = true := decide_eq_true h
      simp only [if_pos h, hd, if_true, ih, hdue]
      rfl
    · have hd : p.due e = false := decide_eq_false h
      simp only [if_neg h, hd, Bool.false_eq_true, if_false]
      rfl

/-- The tone and noise steps of the mixer leave the registers, the FIFO and the clock alone. -/
theorem mixOne_registers :
    let q := p.drain p.fifo
    let t := p.mixOne.2
    t.fifo = q.fifo ∧ t.vol = q.vol ∧ t.tone = q.tone ∧ t.noise = q.noise ∧ t.latchCh = q.latchCh ∧ t.latchType = q.latchType ∧
      t.clock = q.clock + 3579545 := by
  unfold mixOne
  generalize p.drain p.fifo = q
  exact ⟨rfl, rfl, rfl, rfl, rfl, rfl, rfl⟩

/-! ### The sample -/

theorem psgAtten_within (n : Nat) : 0 ≤ Config.psgAtten n ∧ Config.psgAtten n ≤ 1 := by
  induction n with
  | zero => exact ⟨zero_le_one, le_rfl⟩
  | succ n ih =>
    rw [Config.psgAtten]
    split
    · exact ⟨le_rfl, zero_le_one⟩
    · exact ⟨le_max_left _ _, max_le zero_le_one ((min_le_left _ _).trans ih.2)⟩

/-- A channel of level 1 or -1 lies between its attenuation and its negative. -/
theorem abs_channel_le {x : Rat} (hx : x = 1 ∨ x = -1) (n : Nat) : |x * Config.psgAtten n| ≤ 1 := by
  obtain ⟨h0, h1⟩ := psgAtten_within n
  obtain rfl | rfl := hx
  · rwa [one_mul, abs_of_nonneg h0]
  · rwa [neg_one_mul, abs_neg, abs_of_nonneg h0]

theorem value_cases (l : Level) : l.value = 1 ∨ l.value = -1 := by
  cases l
  · exact .inl rfl
  · exact .inr rfl

theorem noiseWave_cases : p.noiseWave = 1 ∨ p.noiseWave = -1 := by
  unfold noiseWave
  dsimp only
  split
  · exact .inl rfl
  · exact .inr rfl

theorem sample_within : -1 ≤ p.sample ∧ p.sample ≤ 1 := by
  have h0 := abs_le.1 (abs_channel_le (value_cases p.out[0]) p.vol[0].toNat)
  have h1 := abs_le.1 (abs_channel_le (value_cases p.out[1]) p.vol[1].toNat)
  have h2 := abs_le.1 (abs_channel_le (value_cases p.out[2]) p.vol[2].toNat)
  have h3 := abs_le.1 (abs_channel_le p.noiseWave_cases p.vol[3].toNat)
  rw [sample]
  constructor <;> linarith only [h0, h1, h2, h3]

theorem sample_silent (h : ∀ c : Fin 4, p.vol[c] = 0xF) : p.sample = 0 := by
  have hz (k : Nat) (hk : k < 4) : Config.psgAtten p.vol[k].toNat = 0 := by
    rw [show p.vol[k] = 0xF from h ⟨k, hk⟩]
    rfl
  simp only [sample, hz, mul_zero, add_zero, zero_div]

end Psg

end Sys2Proof.Machine
end

section
/-! The statements of spec/65_platform_devices.md section 5 settled. -/

namespace Sys2Proof.Proofs.Sound

open Sys2Proof.Machine

/-- Settles O58: a byte selects a register, or does not, and writes the latched one. -/
theorem psgByteProtocol : Obligations.PsgByteProtocol := by
  unfold Obligations.PsgByteProtocol
  intro p v
  obtain ⟨c, type, hs, hch, htype⟩ := p.selected_eq v
  obtain ⟨vol, tone, noise, noisePos, e, hvol, htone, hnoise, hkept⟩ := (p.selected v).setLatched_eq v (v.getLsbD 7)
  have htype' : type = .tone ↔ (if v.getLsbD 7 then v.getLsbD 4 else decide (p.latchType = .volume)) = false := by
    rw [← Bool.not_eq_true, ← htype]
    cases type <;> simp
  rw [hs] at hvol htone hnoise hkept e
  simp only [hch, htype'] at htone hnoise hkept
  simp only [hch, htype] at hvol
  rw [Psg.apply_eq, hs, e]
  exact ⟨hch, htype, hvol, htone, hnoise, hkept, rfl⟩

/-- Settles O59: the tone and noise steps touch none of these, and the events are taken by induction on the FIFO. -/
theorem mixerTakesDueEvents : Obligations.MixerTakesDueEvents := by
  unfold Obligations.MixerTakesDueEvents
  intro p
  have h := p.mixOne_registers
  rw [p.drain_eq p.fifo] at h
  dsimp only at h
  rwa [p.clock_applied] at h

/-- Settles O60: each channel lies within its attenuation, which is 0 at volume 0xF. -/
theorem samplesAreNormalised : Obligations.SamplesAreNormalised := by
  unfold Obligations.SamplesAreNormalised
  intro p
  exact ⟨(Psg.sample_within _).1, (Psg.sample_within _).2, fun h => Psg.sample_silent _ h⟩

end Sys2Proof.Proofs.Sound
end

section
/-! SUPPORT. Ending an instruction and writing a register commute; a push, and a repeating block transfer or search, with the end of the
instruction. -/

namespace Sys2Proof.Machine.State

open Sys2Proof.Safety

variable (s : State)

theorem done_setPlain (r : PlainReg) (v : Byte) (len n : Nat) :
    (s.setPlain r v).done len n = { past s len n with main := s.main.set (plain r) v } := by
  cases r <;> rfl

theorem done_setHalf (x : Idx) (h : Half) (v : Byte) (len n : Nat) :
    (s.setHalf x h v).done len n = (past s len n).setHalf x h v := by
  cases x <;> cases h <;> rfl

theorem done_setPair (p : Pair) (v : Word) (len n : Nat) : (s.setPair p v).done len n = (past s len n).setPair p v := by
  cases p <;> rfl

theorem done_setQPair (p : QPair) (v : Word) (len n : Nat) : (s.setQPair p v).done len n = (past s len n).setQPair p v := by
  cases p <;> rfl

theorem setHl_word (h l : Byte) : s.setHl (wordOf h l) = { s with main := { s.main with h := h, l := l } } := by
  rw [setHl, hiByte_wordOf, loByte_wordOf]

theorem setDe_word (d e : Byte) : s.setDe (wordOf d e) = { s with main := { s.main with d := d, e := e } } := by
  rw [setDe, hiByte_wordOf, loByte_wordOf]

theorem setXY_ix_word (h l : Byte) : s.setXY .ix (wordOf h l) = { s with ixh := h, ixl := l } := by
  rw [setXY_eq_ix, hiByte_wordOf, loByte_wordOf]

theorem setXY_iy_word (h l : Byte) : s.setXY .iy (wordOf h l) = { s with iyh := h, iyl := l } := by
  rw [setXY_eq_iy, hiByte_wordOf, loByte_wordOf]

/-- DE and HL change places (R240). -/
theorem setHl_setDe_exchanged : (s.setDe s.hl).setHl s.de =
    { s with main := { s.main with d := s.main.h, e := s.main.l, h := s.main.d, l := s.main.e } } := by
  rw [hl, de, setDe_word, setHl_word]

/-- A push and the end of the instruction. -/
theorem pushThen_spec (v : Word) (len n : Nat) : Pushes (andThen (s.push16 v) fun t => .next (t.done len n)) s.mmu s.sp v
    { past s len n with sp := s.sp - 2 } :=
  StoresTwo.andThen (s.push16_spec v) fun _ => rfl

theorem repeatIf_with_mmu (m : Mmu) (again : Bool) : { s with mmu := m }.repeatIf again = { iterated s again with mmu := m } := by
  cases again <;> rfl

/-- A counter that a repeating block instruction has decremented. -/
theorem sub_one_bne_zero_eq_decide {w : Nat} (x : BitVec w) : (x - 1 != 0) = decide (x ≠ 1) := by
  rw [sub_one_bne_zero, Bool.eq_iff_iff, bne_iff_ne, decide_eq_true_iff]

/-- One iteration of a repeating block transfer, with its end (R246, R248). -/
theorem blockMove_repeatIf_spec (step : Word) :
    StoresByte (andThen (s.blockMove step) fun u => .next (u.repeatIf (u.bc != 0))) s.mmu s.de (s.read s.hl)
      (iterated (transferred s step (blockMoveFlags s.main.a (s.read s.hl) (s.bc - 1) s.main.f)) (s.bc ≠ 1)) := by
  refine StoresByte.andThen (s.blockMove_spec step) fun m => ?_
  have hbc (f : Byte) : ({ transferred s step f with mmu := m } : State).bc = s.bc - 1 := s.bc_transferred step f
  rw [hbc, sub_one_bne_zero_eq_decide, repeatIf_with_mmu]

/-- One iteration of a repeating block search, with its end (R250, R252). -/
theorem blockSearch_repeatIf_spec (step : Word) :
    (s.blockSearch step).repeatIf ((s.blockSearch step).bc != 0 && !flagZ (s.blockSearch step).main.f) =
      iterated (searched s step (blockSearchFlags s.main.a (s.read s.hl) (s.bc - 1) s.main.f))
        (s.bc ≠ 1 ∧ s.main.a ≠ s.read s.hl) := by
  have ha : (!(s.main.a == s.read s.hl)) = decide (s.main.a ≠ s.read s.hl) := by
    rw [← bne, Bool.eq_iff_iff, bne_iff_ne, decide_eq_true_iff]
  rw [flagZ_blockSearch, blockSearch_spec, bc_searched, sub_one_bne_zero_eq_decide, ha, ← Bool.decide_and]
  rfl

end Sys2Proof.Machine.State
end

section
/-! The statements of spec/40_load8.md, spec/41_load16.md, spec/42_exchange_block.md and spec/10_state.md section 2 settled. -/

namespace Sys2Proof.Proofs.Loads

open Sys2Proof.Machine Sys2Proof.Safety

/-- Settles O1: each load is a write of one register. -/
theorem byteLoadsToRegisters : Obligations.ByteLoadsToRegisters := by
  unfold Obligations.ByteLoadsToRegisters
  intro s r q n d nn pr h src
  have plainReg (v : Byte) := congrArg (@Host.Outcome.next State Fault Refusal) (s.done_setPlain pr v 2 8)
  have half (x : Idx) (v : Byte) (len n : Nat) := congrArg (@Host.Outcome.next State Fault Refusal) (s.done_setHalf x h v len n)
  exact ⟨rfl, rfl, rfl, rfl, rfl, rfl, rfl, rfl, half .ix _ 2 8, half .iy _ 2 8, plainReg _, plainReg _, half .ix n 3 11,
    half .iy n 3 11⟩

/-- Settles O2: the flags are packed from the value. -/
theorem loadsOfIAndR : Obligations.LoadsOfIAndR := by
  unfold Obligations.LoadsOfIAndR
  intro s
  refine ⟨⟨_, ⟨resultFlags_packFlags .., ?_⟩, rfl⟩, ⟨_, ⟨resultFlags_packFlags .., ?_⟩, rfl⟩, rfl, rfl⟩ <;> simp

/-- Settles O3: each is one store. -/
theorem byteStores : Obligations.ByteStores := by
  unfold Obligations.ByteStores
  intro s r n d nn
  refine ⟨?_, ?_, ?_, ?_, ?_, ?_, ?_, ?_, ?_⟩ <;> exact s.storeThen_spec ..

/-- Settles O4: each load is a write of one pair. -/
theorem wordLoadsToRegisters : Obligations.WordLoadsToRegisters := by
  unfold Obligations.WordLoadsToRegisters
  intro s p q nn
  have pair (v : Word) (len n : Nat) := congrArg (@Host.Outcome.next State Fault Refusal) (s.done_setPair p v len n)
  exact ⟨pair nn 3 10, rfl, rfl, rfl, pair _ 4 20, rfl, rfl, rfl, rfl, rfl,
    congrArg _ (s.popped.done_setQPair q s.popValue 1 10), rfl, rfl⟩

/-- Settles O5: each is two stores, of the halves of the operand. -/
theorem wordStoresAndPushes : Obligations.WordStoresAndPushes := by
  unfold Obligations.WordStoresAndPushes
  intro s p q nn
  have hl := s.store16Then_spec nn s.hl 3 16
  have ix := s.store16Then_spec nn (s.getXY .ix) 4 20
  have iy := s.store16Then_spec nn (s.getXY .iy) 4 20
  rw [hl_low, hl_high] at hl
  rw [getXY_low, getXY_high] at ix iy
  exact ⟨hl, s.store16Then_spec nn (s.getPair p) 4 20, ix, iy, s.pushThen_spec _ 1 11, s.pushThen_spec _ 2 15,
    s.pushThen_spec _ 2 15⟩

/-- Settles O6: the write lemmas of the register file; every whole state is a record update. -/
theorem registerFileReadsBack : Obligations.RegisterFileReadsBack := by
  unfold Obligations.RegisterFileReadsBack
  intro s v w
  refine ⟨fun r q => RegSet.get_set .., fun p q => s.getPair_setPair p q w, fun p q => s.getQPair_setQPair p q w, fun x y => ?xy,
    fun x y h k => ?half, fun r => ?f, fun p => ?pair, fun p hp => ?qpair, rfl, rfl, rfl, rfl, fun r => ⟨rfl, rfl⟩, ?_⟩
  case xy => simp only [State.getXY_setXY, eq_comm (a := x)]
  case half => simp only [State.getHalf_setHalf, eq_comm (a := x), eq_comm (a := h)]
  case f => cases r <;> rfl
  case pair => cases p <;> rfl
  case qpair =>
    cases p with
    | af => exact absurd rfl hp
    | bc | de | hl => exact ⟨rfl, rfl⟩
  and_intros <;> rfl

/-- Settles O7: what is put into a pair is a word of two bytes, and the exchanges with the stack are two stores. -/
theorem exchanges : Obligations.Exchanges := by
  unfold Obligations.Exchanges
  intro s
  have hl := s.write16_spec s.sp s.hl
  have ix := s.write16_spec s.sp (s.getXY .ix)
  have iy := s.write16_spec s.sp (s.getXY .iy)
  rw [hl_low, hl_high] at hl
  rw [getXY_low, getXY_high] at ix iy
  refine ⟨?de, rfl, rfl, hl.andThen fun m => ?hl, ix.andThen fun m => ?ix, iy.andThen fun m => ?iy⟩
  case de =>
    exact congrArg (fun t : State => (Host.Outcome.next (t.done 1 4) : Result)) s.setHl_setDe_exchanged
  case hl => rw [State.read16, State.setHl_word]; rfl
  case ix => rw [State.read16, State.setXY_ix_word]; rfl
  case iy => rw [State.read16, State.setXY_iy_word]; rfl

/-- Settles O8: one iteration is one store; the repeating forms differ in their end. -/
theorem blockTransfers : Obligations.BlockTransfers := by
  unfold Obligations.BlockTransfers
  intro s
  exact ⟨_, blockMoveFlags_spec .., StoresByte.andThen (s.blockMove_spec 1) fun _ => rfl,
    StoresByte.andThen (s.blockMove_spec (-1)) fun _ => rfl, s.blockMove_repeatIf_spec 1, s.blockMove_repeatIf_spec (-1)⟩

/-- Settles O9: one iteration stores nothing; the repeating forms differ in their end. -/
theorem blockSearches : Obligations.BlockSearches := by
  unfold Obligations.BlockSearches
  intro s
  have next {t u : State} (h : t = u) : (Host.Outcome.next t : Result) = .next u := congrArg _ h
  refine ⟨_, blockSearchFlags_spec .., ?_, ?_, next (s.blockSearch_repeatIf_spec 1), next (s.blockSearch_repeatIf_spec (-1))⟩
  · rw [← s.blockSearch_spec]; rfl
  · rw [← s.blockSearch_spec]; rfl

end Sys2Proof.Proofs.Loads
end

section
/-! The statements of spec/43_alu8.md settled. -/

namespace Sys2Proof.Machine

open Sys2Proof.Safety

/-- An accumulator operation, its result and flags given. -/
theorem State.aluThen_result (s : State) (op : AluOp) (v : Byte) (len n : Nat) {r : Byte} {P : Byte → Prop}
    (hr : (op.run s.main.a v s.main.f).res = r) (hp : P (op.run s.main.a v s.main.f).flags) :
    ∃ f, P f ∧ s.aluThen op v len n = .next { past s len n with main := { s.main with a := r, f := f } } :=
  ⟨_, hp, hr ▸ s.aluThen_spec op v len n⟩

/-- The same for an operation on A alone. -/
theorem State.modifyA_result (s : State) (g : Byte → Byte → Out8) (len n : Nat) {r : Byte} {P : Byte → Prop}
    (hr : (g s.main.a s.main.f).res = r) (hp : P (g s.main.a s.main.f).flags) :
    ∃ f, P f ∧ s.modifyA g len n = .next { past s len n with main := { s.main with a := r, f := f } } :=
  ⟨_, hp, hr ▸ rfl⟩

/-- A subtraction is an addition of the complement, with the carry in and the carry out inverted (R292). -/
theorem sub8_res_eq_add8_not (a b : Byte) : (sub8 a b false).res = (add8 a (~~~b) true).res := by
  rw [sub8_res, add8_res]
  show a - b - 0 = a + ~~~b + 1
  rw [sub_zero, BitVec.sub_eq_add_neg, BitVec.neg_eq_not_add, BitVec.add_assoc]
  rfl

theorem flagC_sub8_eq_not_flagC_add8 (a b : Byte) (c : Bool) :
    flagC (sub8 a b c).flags = !flagC (add8 a (~~~b) (!c)).flags := by
  have hs := (sub8_flags a b c).but.c
  have ha := (add8_flags a (~~~b) (!c)).c
  have hb := b.isLt
  rw [BitVec.toNat_not] at ha
  have hc : (!c).toNat + c.toNat = 1 := by cases c <;> rfl
  rw [Bool.eq_iff_iff, hs, Bool.not_eq_true', Bool.eq_false_iff, Ne, ha]
  omega

theorem sub8_self_flags (a : Byte) : flagZ (sub8 a a false).flags = true ∧ flagC (sub8 a a false).flags = false ∧
    flagH (sub8 a a false).flags = false ∧ flagPV (sub8 a a false).flags = false := by
  obtain ⟨-, hz, hh, hpv, -, hc⟩ := (sub8_flags a a false).but
  simp only [Bool.toNat_false, Nat.add_zero, Int.sub_self, Nat.lt_irrefl, Overflows8] at hz hh hpv hc
  refine ⟨hz.2 ?_, by simpa using hc, by simpa using hh, by simpa using hpv⟩
  rw [BitVec.sub_self]
  rfl

end Sys2Proof.Machine

namespace Sys2Proof.Proofs.Alu

open Sys2Proof.Machine Sys2Proof.Safety

/-- Settles O10: each form is the same operation on its own operand. -/
theorem additionForms : Obligations.AdditionForms := by
  unfold Obligations.AdditionForms
  intro s r h n d
  have add (v : Byte) (len n : Nat) := s.aluThen_result .add v len n (add8_res _ _ false) (add8_flags s.main.a v false)
  have adc (v : Byte) (len n : Nat) := s.aluThen_result .adc v len n (add8_res _ _ (flagC s.main.f))
    (add8_flags s.main.a v (flagC s.main.f))
  exact ⟨add _ 1 4, add _ 2 7, add _ 1 7, add _ 3 19, add _ 3 19, add _ 2 8, add _ 2 8, adc _ 1 4, adc _ 2 7, adc _ 1 7, adc _ 3 19,
    adc _ 3 19, adc _ 2 8, adc _ 2 8⟩

/-- Settles O11: each form is the same operation on its own operand. -/
theorem subtractionForms : Obligations.SubtractionForms := by
  unfold Obligations.SubtractionForms
  intro s r h n d
  have sub (v : Byte) (len n : Nat) := s.aluThen_result .sub v len n (sub8_res _ _ false) (sub8_flags s.main.a v false)
  have sbc (v : Byte) (len n : Nat) := s.aluThen_result .sbc v len n (sub8_res _ _ (flagC s.main.f))
    (sub8_flags s.main.a v (flagC s.main.f))
  exact ⟨sub _ 1 4, sub _ 2 7, sub _ 1 7, sub _ 3 19, sub _ 3 19, sub _ 2 8, sub _ 2 8, sbc _ 1 4, sbc _ 2 7, sbc _ 1 7, sbc _ 3 19,
    sbc _ 3 19, sbc _ 2 8, sbc _ 2 8⟩

/-- Settles O12: each form is the same operation on its own operand. -/
theorem logicForms : Obligations.LogicForms := by
  unfold Obligations.LogicForms
  intro s r h n d
  have and (v : Byte) (len n : Nat) := s.aluThen_result .and v len n rfl (logicFlags_spec (s.main.a &&& v) true)
  have xor (v : Byte) (len n : Nat) := s.aluThen_result .xor v len n rfl (logicFlags_spec (s.main.a ^^^ v) false)
  have or (v : Byte) (len n : Nat) := s.aluThen_result .or v len n rfl (logicFlags_spec (s.main.a ||| v) false)
  exact ⟨and _ 1 4, and _ 2 7, and _ 1 7, and _ 3 19, and _ 3 19, and _ 2 8, and _ 2 8, xor _ 1 4, xor _ 2 7, xor _ 1 7, xor _ 3 19,
    xor _ 3 19, xor _ 2 8, xor _ 2 8, or _ 1 4, or _ 2 7, or _ 1 7, or _ 3 19, or _ 3 19, or _ 2 8, or _ 2 8⟩

/-- Settles O13: A is written back as it was. -/
theorem compareForms : Obligations.CompareForms := by
  unfold Obligations.CompareForms
  intro s r h n d
  have cp (v : Byte) (len n : Nat) := s.aluThen_result .cp v len n (r := s.main.a)
    (P := fun f => SubFlagsBut s.main.a v false f ∧ flagY f = v.getLsbD 5 ∧ flagX f = v.getLsbD 3) rfl (cp_flags s.main.a v s.main.f)
  exact ⟨cp _ 1 4, cp _ 2 7, cp _ 1 7, cp _ 3 19, cp _ 3 19, cp _ 2 8, cp _ 2 8⟩

/-- Settles O14: increments and decrements of a register, a byte of memory and a half. -/
theorem byteIncrementsAndDecrements : Obligations.ByteIncrementsAndDecrements := by
  unfold Obligations.ByteIncrementsAndDecrements
  intro s r h d inc dec
  have incP (v : Byte) : inc v (inc8 v s.main.f).res (inc8 v s.main.f).flags := ⟨rfl, inc8_flags v s.main.f⟩
  have decP (v : Byte) : dec v (dec8 v s.main.f).res (dec8 v s.main.f).flags := ⟨rfl, dec8_flags v s.main.f⟩
  have incM (a : Word) (len n : Nat) := s.modifyMem_spec a inc8 len n inc incP
  have decM (a : Word) (len n : Nat) := s.modifyMem_spec a dec8 len n dec decP
  have incH (x : Idx) := s.modifyHalf_spec x h inc8 2 8 (inc (s.getHalf x h)) (incP _)
  have decH (x : Idx) := s.modifyHalf_spec x h dec8 2 8 (dec (s.getHalf x h)) (decP _)
  exact ⟨s.modifyR_spec r inc8 1 4 _ (incP _), s.modifyR_spec r dec8 1 4 _ (decP _), incM _ 1 11, decM _ 1 11, incM _ 3 23, decM _ 3 23,
    incM _ 3 23, decM _ 3 23, incH .ix, decH .ix, incH .iy, decH .iy⟩

/-- Settles O15, by the results and flags of the helpers in terms of integers. -/
theorem aluHelperProperties : Obligations.AluHelperProperties := by
  unfold Obligations.AluHelperProperties
  intro a b f c
  obtain ⟨hz, hc, hh, hpv⟩ := sub8_self_flags a
  refine ⟨?add, ?sub, sub8_res_eq_add8_not a b, flagC_sub8_eq_not_flagC_add8 a b c, ?self, hz, hc, hh, hpv, BitVec.xor_self, ?xor,
    BitVec.add_sub_cancel a 1, BitVec.sub_add_cancel a 1, (inc8_flags a f).c, (dec8_flags a f).c⟩
  case add => simp [add8_res]
  case sub =>
    rw [sub8]
    simp only [BitVec.toNat_ofInt, Bool.toNat_false]
    omega
  case self =>
    rw [sub8_res, BitVec.sub_self]
    rfl
  case xor =>
    show logicFlags (a ^^^ a) false = 0x44
    rw [BitVec.xor_self]
    rfl

end Sys2Proof.Proofs.Alu
end

section
/-! The statements of spec/44_gp_arith_control.md and spec/45_alu16.md settled. -/

namespace Sys2Proof.Proofs.Arith

open Sys2Proof.Machine Sys2Proof.Safety

/-- Settles O16, by the integer form of `DAA`. -/
theorem decimalAdjust : Obligations.DecimalAdjust := by
  unfold Obligations.DecimalAdjust
  intro s
  exact ⟨_, daa_res s.main.a s.main.f, s.modifyA_result daa 1 4 rfl (daa_flags s.main.a s.main.f)⟩

/-- `DAA` after an addition, in integers: `u` and `v` are the sums of the digits, `r` is the byte and `t` the adjusted byte (R310). -/
theorem decimal_sum {u v r t : Nat} (hu : u ≤ 19) (hv : v ≤ 18) (hr : r = (16 * v + u) % 256)
    (ht : t = (r + ((if 16 ≤ u ∨ 9 < r % 16 then 0x06 else 0) + if 256 ≤ 16 * v + u ∨ 0x99 < r then 0x60 else 0)) % 256) :
    t % 16 ≤ 9 ∧ t / 16 ≤ 9 ∧ 10 * (t / 16) + t % 16 + 100 * (if 256 ≤ 16 * v + u ∨ 0x99 < r then 1 else 0) = 10 * v + u := by
  have low : (16 ≤ u ∨ 9 < r % 16) ↔ 10 ≤ u := by omega
  have high : (256 ≤ 16 * v + u ∨ 0x99 < r) ↔ 154 ≤ 16 * v + u := by omega
  simp only [low, high] at ht ⊢
  split at ht <;> split at ht
  · rw [if_pos ‹154 ≤ _›]; omega
  · rw [if_neg ‹¬ 154 ≤ _›]; omega
  · rw [if_pos ‹154 ≤ _›]; omega
  · rw [if_neg ‹¬ 154 ≤ _›]; omega

/-- The same after a subtraction, `u` and `v` the differences of the digits. -/
theorem decimal_difference {u v : Int} {r t : Nat} (hu : -10 ≤ u ∧ u ≤ 9) (hv : -9 ≤ v ∧ v ≤ 9) (hr : (r : Int) = (16 * v + u) % 256)
    (ht : t = (r + 256 - ((if u < 0 ∨ 9 < r % 16 then 0x06 else 0) + if 16 * v + u < 0 ∨ 0x99 < r then 0x60 else 0)) % 256) :
    t % 16 ≤ 9 ∧ t / 16 ≤ 9 ∧ (10 * (t / 16) + t % 16 : Int) - 100 * (if 16 * v + u < 0 ∨ 0x99 < r then 1 else 0) = 10 * v + u := by
  have low : (u < 0 ∨ 9 < r % 16) ↔ u < 0 := by omega
  have high : (16 * v + u < 0 ∨ 0x99 < r) ↔ 16 * v + u < 0 := by omega
  simp only [low, high] at ht ⊢
  split at ht <;> split at ht
  · rw [if_pos ‹16 * v + u < 0›]; omega
  · rw [if_neg ‹¬ 16 * v + u < 0›]; omega
  · rw [if_pos ‹16 * v + u < 0›]; omega
  · rw [if_neg ‹¬ 16 * v + u < 0›]; omega

/-- A carry that `DAA` keeps or makes, as a number. -/
theorem toNat_or_decide {b : Bool} {p q : Prop} [Decidable p] [Decidable q] (h : b = true ↔ p) :
    (b || decide q).toNat = if p ∨ q then 1 else 0 := by
  by_cases hp : p <;> by_cases hq : q <;> cases b <;> simp_all

theorem add8_res_toNat (a b : Byte) (c : Bool) : (add8 a b c).res.toNat = (a.toNat + b.toNat + c.toNat) % 256 := by
  rw [add8, BitVec.toNat_ofNat]

theorem sub8_res_toNat (a b : Byte) (c : Bool) : ((sub8 a b c).res.toNat : Int) = ((a.toNat : Int) - b.toNat - c.toNat) % 256 := by
  rw [sub8, BitVec.toNat_ofInt]
  exact Int.toNat_of_nonneg (Int.emod_nonneg _ (by decide))

/-- `DAA` where F is that of an addition whose digits sum to `u` and `v`. -/
theorem daa_of_sum {r f : Byte} {u v : Nat} (hu : u ≤ 19) (hv : v ≤ 18) (hr : r.toNat = (16 * v + u) % 256) (hn : flagN f = false)
    (hh : flagH f = true ↔ 16 ≤ u) (hc : flagC f = true ↔ 256 ≤ 16 * v + u) :
    (daa r f).res.toNat % 16 ≤ 9 ∧ (daa r f).res.toNat / 16 ≤ 9 ∧
      10 * ((daa r f).res.toNat / 16) + (daa r f).res.toNat % 16 + 100 * (flagC (daa r f).flags).toNat = 10 * v + u := by
  have ht := daa_res r f
  simp only [hh, hc, hn, Bool.false_eq_true, if_false] at ht
  rw [(daa_flags r f).c, toNat_or_decide hc]
  exact decimal_sum hu hv hr ht

/-- `DAA` where F is that of a subtraction whose digits differ by `u` and `v`. -/
theorem daa_of_difference {r f : Byte} {u v : Int} (hu : -10 ≤ u ∧ u ≤ 9) (hv : -9 ≤ v ∧ v ≤ 9)
    (hr : (r.toNat : Int) = (16 * v + u) % 256) (hn : flagN f = true) (hh : flagH f = true ↔ u < 0)
    (hc : flagC f = true ↔ 16 * v + u < 0) :
    (daa r f).res.toNat % 16 ≤ 9 ∧ (daa r f).res.toNat / 16 ≤ 9 ∧
      (10 * ((daa r f).res.toNat / 16) + (daa r f).res.toNat % 16 : Int) - 100 * (flagC (daa r f).flags).toNat = 10 * v + u := by
  have ht := daa_res r f
  simp only [hh, hc, hn, if_true] at ht
  rw [(daa_flags r f).c, toNat_or_decide hc]
  obtain ⟨h1, h2, h3⟩ := decimal_difference hu hv hr ht
  exact ⟨h1, h2, by push_cast; exact h3⟩

theorem daa_add8 (a b : Byte) (c : Bool) (hal : a.toNat % 16 ≤ 9) (hah : a.toNat / 16 ≤ 9) (hbl : b.toNat % 16 ≤ 9)
    (hbh : b.toNat / 16 ≤ 9) :
    let sum := daa (add8 a b c).res (add8 a b c).flags
    sum.res.toNat % 16 ≤ 9 ∧ sum.res.toNat / 16 ≤ 9 ∧ 
      10 * (sum.res.toNat / 16) + sum.res.toNat % 16 + 100 * (flagC sum.flags).toNat =
        10 * (a.toNat / 16 + b.toNat / 16) + (a.toNat % 16 + b.toNat % 16 + c.toNat) := by
  have hk : c.toNat ≤ 1 := c.toNat_le
  obtain ⟨-, hh, -, hn, hc⟩ := add8_flags a b c
  have hr := add8_res_toNat a b c
  generalize (add8 a b c).res = r, (add8 a b c).flags = f at *
  refine daa_of_sum (by omega) (by omega) (hr.trans (by omega)) hn hh (hc.trans (by omega))

theorem daa_sub8 (a b : Byte) (c : Bool) (hal : a.toNat % 16 ≤ 9) (hah : a.toNat / 16 ≤ 9) (hbl : b.toNat % 16 ≤ 9)
    (hbh : b.toNat / 16 ≤ 9) :
    let diff := daa (sub8 a b c).res (sub8 a b c).flags
    diff.res.toNat % 16 ≤ 9 ∧ diff.res.toNat / 16 ≤ 9 ∧
      (10 * (diff.res.toNat / 16 : Nat) + (diff.res.toNat % 16 : Nat) : Int) - 100 * (flagC diff.flags).toNat =
        10 * ((a.toNat / 16 : Nat) - (b.toNat / 16 : Nat)) + ((a.toNat % 16 : Nat) - (b.toNat % 16 : Nat) - c.toNat) := by
  have hk : c.toNat ≤ 1 := c.toNat_le
  obtain ⟨-, -, hh, -, hn, hc⟩ := (sub8_flags a b c).but
  have hr := sub8_res_toNat a b c
  generalize (sub8 a b c).res = r, (sub8 a b c).flags = f at *
  exact daa_of_difference (by omega) (by omega) (hr.trans (by omega)) hn (hh.trans (by omega)) (hc.trans (by omega))

/-- Settles O17: the operands as digits, whose sums and differences the flags speak of. -/
theorem decimalAdjustIsDecimal : Obligations.DecimalAdjustIsDecimal := by
  unfold Obligations.DecimalAdjustIsDecimal
  intro a b c hal hah hbl hbh
  obtain ⟨s1, s2, s3⟩ := daa_add8 a b c hal hah hbl hbh
  obtain ⟨d1, d2, d3⟩ := daa_sub8 a b c hal hah hbl hbh
  refine ⟨s1, s2, ?_, d1, d2, ?_⟩
  · replace s3 := congrArg (Nat.cast : Nat → Int) s3
    simp only [Nat.cast_add, Nat.cast_mul, Nat.cast_ofNat] at s3
    linarith only [s3]
  · linarith only [d3]

/-- Settles O18: each is an operation on A alone, or a write of F. -/
theorem accumulatorAndFlagOperations : Obligations.AccumulatorAndFlagOperations := by
  unfold Obligations.AccumulatorAndFlagOperations
  intro s y
  have neg := s.modifyA_result (fun a _ => sub8 0 a false) 2 8 (P := SubFlags 0 s.main.a false) (sub8_res 0 s.main.a false)
    (sub8_flags 0 s.main.a false)
  rw [show BitVec.ofNat 8 false.toNat = 0 from rfl, sub_zero] at neg
  exact ⟨s.modifyA_result cpl 1 4 rfl (keepsSZP_packFlags ..), neg, neg, ⟨_, keepsSZP_packFlags .., rfl⟩,
    ⟨_, keepsSZP_packFlags .., rfl⟩⟩

/-- Settles O19: each is one record update. -/
theorem cpuControl : Obligations.CpuControl := by
  unfold Obligations.CpuControl
  intro s y
  and_intros <;> rfl

/-- Settles O20, by the results and flags of the 16-bit helpers. -/
theorem wordArithmetic : Obligations.WordArithmetic := by
  unfold Obligations.WordArithmetic
  intro s p q c v adds
  have pair (v : Word) := congrArg (@Host.Outcome.next State Fault Refusal) (s.done_setPair p v 1 6)
  refine ⟨⟨_, add16_flags .., ?_⟩, ⟨_, add16_flags .., ?_⟩, ⟨_, add16_flags .., ?_⟩, ⟨_, adc16_flags .., ?_⟩,
    ⟨_, sbc16_flags .., ?_⟩, pair _, pair _, rfl, rfl, rfl, rfl⟩
  · rw [← add16_res s.hl v s.main.f]; rfl
  · rw [← add16_res (s.getXY .ix) (s.getIdxPair .ix q) s.main.f]; rfl
  · rw [← add16_res (s.getXY .iy) (s.getIdxPair .iy q) s.main.f]; rfl
  · rw [← adc16_res]; rfl
  · rw [← sbc16_res]; rfl

end Sys2Proof.Proofs.Arith
end

section
/-! The statements of spec/46_rotate_shift.md and spec/47_bit.md settled. -/

namespace Sys2Proof.Machine

open Sys2Proof.Safety

/-- The flags of `RLD` and `RRD` (R363). -/
theorem digitFlags_spec (a f : Byte) : ParityFlags a false false (flagC f) (digitFlags a f) := parityFlags_packFlags ..

end Sys2Proof.Machine

namespace Sys2Proof.Proofs.Bits

open Sys2Proof.Machine Sys2Proof.Safety

/-- Settles O21: one operation on A or on a register for each form. -/
theorem registerRotates : Obligations.RegisterRotates := by
  unfold Obligations.RegisterRotates
  intro s r acc ends
  have rotA (op : RotOp) := s.modifyA_result op.runAcc 1 4 rfl (rot_runAcc op s.main.a s.main.f)
  have rotR (op : RotOp) := s.modifyR_spec r op.run 2 8 (Rotated op (s.main.get r) s.main.f) (rot_run op (s.main.get r) s.main.f)
  exact ⟨⟨_, rot_res .rlc .., rotA .rlc⟩, ⟨_, rot_res .rl .., rotA .rl⟩, ⟨_, rot_res .rrc .., rotA .rrc⟩,
    ⟨_, rot_res .rr .., rotA .rr⟩, rotR .rlc, rotR .rrc, rotR .rl, rotR .rr, rotR .sla, rotR .sra, rotR .sll, rotR .srl⟩

/-- Settles O22: one read-modify-write for each operation, with and without a copy. -/
theorem memoryRotates : Obligations.MemoryRotates := by
  unfold Obligations.MemoryRotates
  intro s r d rot x y
  have hl (op : RotOp) := s.modifyMem_spec s.hl op.run 2 15 (rot op) fun v => rot_run op v s.main.f
  have mem (op : RotOp) (a : Word) := s.modifyMem_spec a op.run 4 23 (rot op) fun v => rot_run op v s.main.f
  have copy (op : RotOp) (a : Word) := s.modifyMemCopy_spec a r op.run 4 23 (rot op) fun v => rot_run op v s.main.f
  exact ⟨hl .rlc, mem .rlc x, mem .rlc y, copy .rlc x, copy .rlc y, hl .rrc, mem .rrc x, mem .rrc y, copy .rrc x, copy .rrc y,
    hl .rl, mem .rl x, mem .rl y, copy .rl x, copy .rl y, hl .rr, mem .rr x, mem .rr y, copy .rr x, copy .rr y,
    hl .sla, mem .sla x, mem .sla y, copy .sla x, copy .sla y, hl .sra, mem .sra x, mem .sra y, copy .sra x, copy .sra y,
    hl .sll, mem .sll x, mem .sll y, copy .sll x, copy .sll y, hl .srl, mem .srl x, mem .srl y, copy .srl x, copy .srl y⟩

/-- Settles O23: the digits are halves of bytes, and the store is one. -/
theorem digitRotates : Obligations.DigitRotates := by
  unfold Obligations.DigitRotates
  intro s a v ends
  refine ⟨⟨_, _, _, (digits_toNat _ _).trans ?_, (digits_toNat _ _).trans ?_, digitFlags_spec ..,
      StoresByte.andThen (s.write_spec s.hl _) fun _ => rfl⟩,
    ⟨_, _, _, (digits_toNat _ _).trans ?_, (digits_toNat _ _).trans ?_, digitFlags_spec ..,
      StoresByte.andThen (s.write_spec s.hl _) fun _ => rfl⟩⟩ <;>
  simp only [highDigit_toNat, lowDigit_toNat, a, v]

/-- Settles O24: each is a write of F. -/
theorem bitTests : Obligations.BitTests := by
  unfold Obligations.BitTests
  intro s b r d ix iy
  exact ⟨⟨_, bitFlags_spec .., rfl⟩, ⟨_, bitFlags_spec .., rfl⟩, ⟨_, bitFlags_spec .., rfl⟩, ⟨_, bitFlags_spec .., rfl⟩,
    ⟨_, bitFlags_spec .., rfl⟩, ⟨_, _, bitFlags_spec .., rfl⟩⟩

/-- Settles O25: one operation on a register or a byte of memory for each form. -/
theorem bitSetsAndResets : Obligations.BitSetsAndResets := by
  unfold Obligations.BitSetsAndResets
  intro s b r d made x y
  have set (v : Byte) : made true v (setBit b v s.main.f).res (setBit b v s.main.f).flags := ⟨setBit_made b v s.main.f, rfl⟩
  have res (v : Byte) : made false v (resBit b v s.main.f).res (resBit b v s.main.f).flags := ⟨resBit_made b v s.main.f, rfl⟩
  have setM (a : Word) (len n : Nat) := s.modifyMem_spec a (setBit b) len n (made true) set
  have resM (a : Word) (len n : Nat) := s.modifyMem_spec a (resBit b) len n (made false) res
  have setC (a : Word) := s.modifyMemCopy_spec a r (setBit b) 4 23 (made true) set
  have resC (a : Word) := s.modifyMemCopy_spec a r (resBit b) 4 23 (made false) res
  exact ⟨s.modifyR_spec r (setBit b) 2 8 _ (set _), s.modifyR_spec r (resBit b) 2 8 _ (res _), setM _ 2 15, resM _ 2 15,
    setM x 4 23, resM x 4 23, setM y 4 23, resM y 4 23, setC x, resC x, setC y, resC y⟩

end Sys2Proof.Proofs.Bits
end

section
/-! The statements of spec/48_jump_call.md settled that earlier files leave. -/

namespace Sys2Proof.Proofs.Jump

open Sys2Proof.Machine Sys2Proof.Safety

/-- Settles O27: each is one assignment of PC. -/
theorem jumps : Obligations.Jumps := by
  unfold Obligations.Jumps
  intro s cc nn e rel jr
  refine ⟨rfl, rfl, rfl, rfl, rfl, rfl, rfl, ?djnz, rfl, rfl, rfl⟩
  case djnz =>
    have h : exec (.djnzE e) s = if s.main.b - 1 != 0 then .next { sentTo s rel 13 with main := { s.main with b := s.main.b - 1 } }
      else .next { past s 2 8 with main := { s.main with b := s.main.b - 1 } } := rfl
    rw [h, sub_one_bne_zero]
    by_cases hb : s.main.b = 1
    · rw [if_pos hb, hb, bne_self_eq_false, if_neg Bool.false_ne_true]
      rfl
    · rw [if_neg hb, if_pos (bne_iff_ne.2 hb)]

/-- Settles O28: calls are pushes, and returns read the two bytes at SP. -/
theorem callsAndReturns : Obligations.CallsAndReturns := by
  unfold Obligations.CallsAndReturns
  intro s cc nn t y back
  have target : t.zeroExtend 16 * 8 = BitVec.ofNat 16 (8 * t.toNat) := by
    have := t.isLt
    apply BitVec.eq_of_toNat_eq
    simp
    omega
  have rst : Pushes (exec (.rstP t) s) s.mmu s.sp (s.pc + 1) { sentTo s (t.zeroExtend 16 * 8) 11 with sp := s.sp - 2 } :=
    s.call_spec (t.zeroExtend 16 * 8) 1 11
  rw [target] at rst
  refine ⟨s.call_spec nn 3 17, fun hc => ⟨?_, if_pos hc⟩, fun hc => ⟨?_, ?_⟩, rst, rfl, rfl, rfl, rfl⟩
  · rw [show exec (.callCcNn cc nn) s = s.call nn 3 17 from if_pos hc]
    exact s.call_spec nn 3 17
  · exact if_neg (ne_true_of_eq_false hc)
  · exact if_neg (ne_true_of_eq_false hc)

end Sys2Proof.Proofs.Jump
end

section
/-! SUPPORT. Register writes after a port read, and the repeating block inputs and outputs with their ends. -/

namespace Sys2Proof.Machine.State

open Sys2Proof.Safety

variable (s : State)

theorem setF_setR (r : Reg8) (v f : Byte) : (s.setR r v).setF f = { s with main := { s.main with f := f }.set r v } := by
  cases r <;> rfl

/-- The low byte of a step of HL (R445). -/
theorem loByte_step (x : Byte) : x + loByte 1 = x + 1 ∧ x + loByte (-1) = x - 1 := by
  refine ⟨rfl, ?_⟩
  rw [show loByte (-1) = -1 from rfl, sub_eq_add_neg]

theorem loByte_hl_add (step : Word) : loByte (s.hl + step) = s.main.l + loByte step := by
  rw [loByte_add, hl, loByte_wordOf]

/-- One iteration of a repeating block input, with its end (R434, R436). -/
theorem blockIn_repeatIf_spec (step : Word) :
    StoresByte (andThen (s.blockIn step) fun u => .next (u.repeatIf (u.main.b != 0))) s.mmu s.hl (s.portRead s.main.c).1
      (iterated (counted (s.portRead s.main.c).2 step (ioFlags (s.portRead s.main.c).1
        ((s.portRead s.main.c).1.toNat + (s.main.c + loByte step).toNat) (s.main.b - 1))) (s.main.b ≠ 1)) := by
  refine StoresByte.andThen (s.blockIn_spec step) fun m => ?_
  have hb (f : Byte) : ({ counted (s.portRead s.main.c).2 step f with mmu := m } : State).main.b = s.main.b - 1 := by
    show (counted (s.portRead s.main.c).2 step f).main.b = s.main.b - 1
    rw [b_counted, portRead_main]
  rw [hb, sub_one_bne_zero_eq_decide, repeatIf_with_mmu]

/-- One iteration of a repeating block output, with its end (R441, R443). -/
theorem blockOut_repeatIf_spec (step : Word) :
    (s.blockOut step).repeatIf ((s.blockOut step).main.b != 0) =
      iterated (counted (s.portWrite s.main.c (s.read s.hl)) step
        (ioFlags (s.read s.hl) ((s.read s.hl).toNat + (s.main.l + loByte step).toNat) (s.main.b - 1))) (s.main.b ≠ 1) := by
  rw [b_blockOut, sub_one_bne_zero_eq_decide, blockOut_spec, loByte_hl_add]
  rfl

end Sys2Proof.Machine.State
end

section
/-! The statements of spec/49_io.md settled. -/

namespace Sys2Proof.Proofs.Io

open Sys2Proof.Machine Sys2Proof.Safety

/-- Settles O29: a port read leaves the registers alone. -/
theorem portInstructions : Obligations.PortInstructions := by
  unfold Obligations.PortInstructions
  intro s r n v t
  have main : t.main = s.main := s.portRead_main s.main.c
  have setR := t.setF_setR r v (inFlags v s.main.f)
  have setF (f : Byte) : t.setF f = { t with main := { s.main with f := f } } := by
    rw [← main]
    rfl
  rw [main] at setR
  have next {u w : State} (h : u = w) : (Host.Outcome.next (u.done 2 12) : Result) = .next (w.done 2 12) := h ▸ rfl
  refine ⟨?inA, ⟨inFlags v s.main.f, parityFlags_packFlags .., next setR, next (setF _)⟩, rfl, rfl, rfl⟩
  rw [← s.portRead_main n]
  rfl

/-- Settles O30: one iteration is one store; the repeating forms differ in their end. -/
theorem blockInputs : Obligations.BlockInputs := by
  unfold Obligations.BlockInputs
  intro s
  have up := s.blockIn_spec 1
  have down := s.blockIn_spec (-1)
  have upAgain := s.blockIn_repeatIf_spec 1
  have downAgain := s.blockIn_repeatIf_spec (-1)
  rw [(State.loByte_step s.main.c).1] at up upAgain
  rw [(State.loByte_step s.main.c).2] at down downAgain
  exact ⟨⟨_, ioFlags_spec .., up.andThen fun _ => rfl, upAgain⟩, ⟨_, ioFlags_spec .., down.andThen fun _ => rfl, downAgain⟩⟩

/-- Settles O31: one iteration stores nothing; the repeating forms differ in their end. -/
theorem blockOutputs : Obligations.BlockOutputs := by
  unfold Obligations.BlockOutputs
  intro s v t
  have next {t u : State} (h : t = u) : (Host.Outcome.next t : Result) = .next u := congrArg _ h
  have up := s.blockOut_spec 1
  have down := s.blockOut_spec (-1)
  have upAgain := s.blockOut_repeatIf_spec 1
  have downAgain := s.blockOut_repeatIf_spec (-1)
  rw [s.loByte_hl_add, (State.loByte_step s.main.l).1] at up
  rw [s.loByte_hl_add, (State.loByte_step s.main.l).2] at down
  rw [(State.loByte_step s.main.l).1] at upAgain
  rw [(State.loByte_step s.main.l).2] at downAgain
  exact ⟨⟨_, ioFlags_spec .., next (congrArg (State.done · 2 16) up), next upAgain⟩,
    ⟨_, ioFlags_spec .., next (congrArg (State.done · 2 16) down), next downAgain⟩⟩

end Sys2Proof.Proofs.Io
end

section
/-! SUPPORT. Stores to the SEGA control register and to ROM (R87, R90), and the mirror of system RAM (R76). -/

namespace Sys2Proof.Machine.Mmu

open Sys2Proof.Safety

variable {m : Mmu} {a : Word} {v : Byte}

/-- A control byte whose bits are supported (R87). -/
theorem write_control (hm : m.mapper = .sega) (hv : unsupportedControl v = false) :
    m.write 0xFFFC v = .ok ((m.putSysRam 0xFFFC v).setMapperControl v) := by
  simp [write, hm, hv]

/-- A store to ROM space that is no mapper register is ignored (R90). -/
theorem write_rom (h : a.toNat < 0xC000) (hw : 0x8000 ≤ a.toNat → m.ramEnable = false) (hs : slotRegister m a = none) :
    m.write a v = .ok m := by
  have ne : ¬ (m.mapper = .codemasters ∧ a = 0x8000 ∧ m.ramEnable = false) ∧ ¬ (m.mapper = .korean ∧ a = 0xA000 ∧ m.ramEnable = false) ∧
      ¬ (m.mapper = .codemasters ∧ a = 0x0000) ∧ ¬ (m.mapper = .codemasters ∧ a = 0x4000) := by
    refine ⟨?_, ?_, ?_, ?_⟩ <;> rintro ⟨hm, ha⟩ <;> simp [slotRegister, hm, ha] at hs
  obtain ⟨c2, k2, c0, c1⟩ := ne
  have word {n : Nat} (hn : n < 65536) := toNat_eq_iff (a := a) hn
  rw [write]
  simp only [Nat.not_le.2 h, if_false, word (n := 0x8000) (by decide), word (n := 0xA000) (by decide), word (n := 0x0000) (by decide),
    word (n := 0x4000) (by decide)]
  by_cases h8 : 0x8000 ≤ a.toNat
  · have he := hw h8
    rw [if_pos h8, he, if_neg Bool.false_ne_true, if_neg fun h => c2 ⟨h.1, h.2, he⟩, if_neg fun h => k2 ⟨h.1, h.2, he⟩]
  · rw [if_neg h8]
    exact (if_neg c0).trans (if_neg c1)

/-- Both addresses of a byte of system RAM read the same cell (R76). -/
theorem read_mirror (h1 : 0xC000 ≤ a.toNat) (h2 : a.toNat < 0xE000) : m.read (a + 0x2000) = m.read a := by
  have h : (a + 0x2000).toNat = a.toNat + 0x2000 := by
    rw [BitVec.toNat_add]
    exact Nat.mod_eq_of_lt (by simp; omega)
  rw [read_sysRam (by omega), read_sysRam h1, h, Nat.add_mod_right]

/-- A byte stored in system RAM reads back, whatever else the store does. -/
theorem read_of_write_high {n : Mmu} (h : 0xC000 ≤ a.toNat) (hw : m.write a v = .ok n) : n.read a = v := by
  by_cases f : StoreFaults m a v
  · cases (write_fault f).symm.trans hw
  · obtain ⟨k, hk, e⟩ := write_effect f
    cases hk.symm.trans hw
    have hit := e.hit
    rw [place_high h] at hit
    rw [read, place_high h]
    exact hit trivial

end Sys2Proof.Machine.Mmu

namespace Sys2Proof.Machine.State

theorem write_of_ok {s : State} {a : Word} {v : Byte} {m : Mmu} (h : s.mmu.write a v = .ok m) :
    s.write a v = .next { s with mmu := m } := by
  rw [write, h]

end Sys2Proof.Machine.State
end

section
/-! SUPPORT. The port map with the port as a number (R95, R96), and the control word by its top two bits (R513). -/

namespace Sys2Proof.Machine

theorem bit0_iff (p : Byte) : p.getLsbD 0 = true ↔ p.toNat % 2 = 1 := by
  rw [BitVec.getLsbD, Nat.testBit_zero, decide_eq_true_iff]

/-- The ends of the port ranges. -/
theorem port_le_iff (p : Byte) : (p ≤ 0x3F ↔ p.toNat < 0x40) ∧ (p ≤ 0x7F ↔ p.toNat < 0x80) ∧ (p ≤ 0xBF ↔ p.toNat < 0xC0) :=
  ⟨Nat.lt_succ_iff.symm, Nat.lt_succ_iff.symm, Nat.lt_succ_iff.symm⟩

theorem State.portRead_eq (s : State) (p : Byte) : s.portRead p =
    if p.toNat < 0x40 then (0xFF, s)
    else if p.toNat < 0x80 then (if p.toNat % 2 = 1 then BitVec.ofNat 8 s.vdp.hCounter else s.vdp.vCounter, s)
    else if p.toNat < 0xC0 then
      (if p.toNat % 2 = 1 then (s.vdp.statusRead.1, { s with vdp := s.vdp.statusRead.2, pendingInt := false })
        else (s.vdp.dataRead.1, { s with vdp := s.vdp.dataRead.2 }))
    else if p = 0xDE ∨ p = 0xDF then (0xFF, s)
    else (if p.toNat % 2 = 1 then s.inputs.joypadB else s.inputs.joypad, s) := by
  obtain ⟨h1, h2, h3⟩ := port_le_iff p
  simp only [portRead, vdpRead, h1, h2, h3, bit0_iff]

theorem State.portWrite_eq (s : State) (p v : Byte) : s.portWrite p v =
    if p.toNat < 0x40 then s
    else if p.toNat < 0x80 then { s with psg := s.psg.write v s.cycles }
    else if p.toNat < 0xC0 then { s with vdp := if p.toNat % 2 = 1 then s.vdp.controlWrite v else s.vdp.dataWrite v }
    else s := by
  obtain ⟨h1, h2, h3⟩ := port_le_iff p
  simp only [portWrite, h1, h2, h3, bit0_iff]

/-- The control word of two bytes by the top two bits of the second (R513). -/
theorem Vdp.controlWrite_controlWrite {v : Vdp} (h : v.pending = false) (x y : Byte) :
    (v.controlWrite x).controlWrite y = ({ v with latch := x, pending := false } : Vdp).controlWord (y ++ x) := by
  simp [Vdp.controlWrite, h]

theorem top_bits (x y : Byte) : ((y ++ x : Word).extractLsb' 14 2).toNat = y.toNat / 64 := by
  have := x.isLt
  have := y.isLt
  rw [BitVec.extractLsb'_toNat, Nat.shiftRight_eq_div_pow, toNat_append_eq]
  omega

theorem register_number (x y : Byte) : ((y ++ x : Word).extractLsb' 8 4).toNat = y.toNat % 16 := by
  have := x.isLt
  rw [BitVec.extractLsb'_toNat, Nat.shiftRight_eq_div_pow, toNat_append_eq]
  omega

end Sys2Proof.Machine
end

section
/-! The statements of spec/20_memory.md settled that earlier files leave, and the port map and the VDP's ports. -/

namespace Sys2Proof.Proofs.Memory

open Sys2Proof.Machine Sys2Proof.Safety

/-- Settles O51, by the store's effect in each range. -/
theorem controlByteRomStoresAndMirror : Obligations.ControlByteRomStoresAndMirror := by
  unfold Obligations.ControlByteRomStoresAndMirror
  intro s a v
  have control : (v.getLsbD 4 || v.getLsbD 1 || v.getLsbD 0) = true ↔ v.getLsbD 4 = true ∨ v.getLsbD 1 = true ∨ v.getLsbD 0 = true := by
    rw [Bool.or_eq_true, Bool.or_eq_true, or_assoc]
  refine ⟨fun hm hv => (s.write_spec _ v).1 ⟨hm, rfl, control.1 hv⟩, fun hm hv => ?control, fun hm => ?other, fun h hw hs => ?rom,
    fun h1 h2 => ⟨Mmu.read_mirror h1 h2, fun t ht => ?mirror⟩⟩
  case control =>
    have hu : unsupportedControl v = false := by
      rw [Bool.eq_false_iff, Ne, Mmu.unsupportedControl_iff, ← control, hv]
      exact Bool.false_ne_true
    have hw := Mmu.write_control hm hu
    exact ⟨_, State.write_of_ok hw, rfl, rfl, Mmu.read_of_write_high (by decide) hw, rfl, rfl, rfl, rfl⟩
  case other =>
    obtain ⟨m, e, ho⟩ := (s.write_spec a v).2 fun f => hm f.1
    exact ⟨m, ho, (e.noEnable fun f => hm f.1).1⟩
  case rom =>
    have ignored (w : Byte) : s.write a w = .next s := State.write_of_ok (Mmu.write_rom h hw hs)
    refine ⟨ignored v, ?_⟩
    show s.storeThen a s.main.a 3 13 = _
    rw [State.storeThen, ignored, andThen_next]
    rfl
  case mirror =>
    have hm : (a + 0x2000).toNat = a.toNat + 0x2000 := by
      rw [BitVec.toNat_add]
      exact Nat.mod_eq_of_lt (by simp; omega)
    obtain ht | ht := ht <;> obtain ⟨n, hn, rfl⟩ := s.write_next ht
    · have h : n.read a = v := Mmu.read_of_write_high h1 hn
      exact ⟨h, (Mmu.read_mirror h1 h2).trans h⟩
    · have h : n.read (a + 0x2000) = v := Mmu.read_of_write_high (by omega) hn
      exact ⟨(Mmu.read_mirror h1 h2).symm.trans h, h⟩

/-- Settles O52, by the ranges of the port number. -/
theorem portMap : Obligations.PortMap := by
  unfold Obligations.PortMap
  intro s p v n
  rw [s.portRead_eq, s.portWrite_eq]
  refine ⟨fun h => ?_, fun h1 h2 => ?_, fun h1 h2 h => ?_, fun h1 h2 h => ?_, fun h1 => ?_⟩
  · simp only [show p.toNat < 0x40 from h, if_true, and_self]
  · have n1 : ¬ p.toNat < 0x40 := Nat.not_lt.2 h1
    simp only [n1, show p.toNat < 0x80 from h2, if_true, if_false]
    refine ⟨?_, rfl⟩
    by_cases h : p.toNat % 2 = 1
    · rw [if_pos h, if_neg (by omega)]
    · rw [if_neg h, if_pos (by omega)]
  · have n1 : ¬ p.toNat < 0x40 := by omega
    have n2 : ¬ p.toNat < 0x80 := Nat.not_lt.2 h1
    have odd : ¬ p.toNat % 2 = 1 := by omega
    simp only [n1, n2, show p.toNat < 0xC0 from h2, odd, if_true, if_false, and_self]
  · have n1 : ¬ p.toNat < 0x40 := by omega
    have n2 : ¬ p.toNat < 0x80 := Nat.not_lt.2 h1
    simp only [n1, n2, show p.toNat < 0xC0 from h2, show p.toNat % 2 = 1 from h, if_true, if_false, and_self]
  · have n1 : ¬ p.toNat < 0x40 := by omega
    have n2 : ¬ p.toNat < 0x80 := by omega
    have n3 : ¬ p.toNat < 0xC0 := Nat.not_lt.2 h1
    simp only [n1, n2, n3, if_false, true_and]
    split <;> rfl

/-- Settles O53: the port's functions by cases of the top two bits and the mode. -/
theorem vdpPorts : Obligations.VdpPorts := by
  unfold Obligations.VdpPorts
  intro v x y w target twice
  have word (h : v.pending = false) : twice = w.controlWord (y ++ x) := Vdp.controlWrite_controlWrite h x y
  refine ⟨fun h => ?_, fun h h0 => ?_, fun h h1 => ?_, fun h h2 => ?_, fun h h3 => ?_, ?_, rfl, rfl⟩
  · rw [Vdp.controlWrite, h]
    rfl
  · rw [word h, Vdp.controlWord]
    simp only [top_bits, h0]
    rfl
  · rw [word h, Vdp.controlWord]
    simp only [top_bits, h1]
    rfl
  · rw [word h, Vdp.controlWord]
    simp only [top_bits, h2]
    refine ⟨_, rfl, fun k => ?_⟩
    simp only [register_number, Fin.getElem_fin, Vector.getElem_setIfInBounds, eq_comm (a := k.1)]
    split
    · exact loByte_wordOf y x
    · rfl
  · rw [word h, Vdp.controlWord]
    simp only [top_bits, h3]
    rfl
  · rw [Vdp.dataWrite]
    split
    next h => exact ⟨{ v with vram := v.vram.write v.addr.toNat x }, rfl, fun _ => rfl, fun h' => nomatch h.symm.trans h'⟩
    next h => exact ⟨{ v with cram := v.cram.write (v.addr.toNat % 32) x }, rfl, fun h' => (nomatch h.symm.trans h'), fun _ => rfl⟩

/-- Settles O48: the memories are put in canonical form, and everything else is a constant or an argument. -/
theorem resetState : Obligations.ResetState := by
  unfold Obligations.ResetState
  intro p s
  refine ⟨rfl, rfl, rfl, rfl, rfl, rfl, rfl, rfl, rfl, rfl, rfl, rfl, rfl, rfl, rfl, rfl, rfl, rfl, Nat.mul_mod_left .., ?_,
    fun a ha => Rom.read_normal _ ha, rfl, fun a ha => Memory.read_ofCells _ _ ha, fun a ha => Memory.read_ofCells _ _ ha,
    fun a ha => Memory.read_ofCells _ _ ha, fun a ha => Memory.read_ofCells _ _ ha, fun h => ?_, fun h => Memory.ofCells_of_wf h.1 h.2,
    fun h => Memory.ofCells_of_wf h.1 h.2, fun h => Memory.ofCells_of_wf h.1 h.2, fun h => Memory.ofCells_of_wf h.1 h.2, ?_⟩
  · show 0xC000 ≤ (3 + p.rom.moreBanks) * 0x4000
    omega
  · exact congrArg (fun c => ({ p.rom with cells := c } : Rom)) (Memory.ofCells_of_wf h.1 h.2)
  · refine ⟨?_, rfl, rfl, rfl, rfl, rfl, rfl, rfl, rfl, rfl, rfl, ?_, ?_, ?_⟩
    · exact fun k => Vector.getElem_replicate k.isLt
    · show ∀ c : Fin 4, Psg.reset.vol[c] = 0xF
      decide
    · show ∀ c : Fin 3, Psg.reset.tone[c] = 0 ∧ Psg.reset.phase[c] = 0 ∧ Psg.reset.out[c] = .plus
      decide
    · and_intros <;> rfl

/-- Settles O34: the decoder evaluated on each word. -/
theorem decodedWords : Obligations.DecodedWords := by
  unfold Obligations.DecodedWords
  intro b3
  and_intros <;> rfl

end Sys2Proof.Proofs.Memory
end
